-- ==== Sys2Proof/Word.lean ====
section
/-!
DEFINITION. The word types of the core (spec 00 R6, R9): bytes, 16-bit words, register numbers.
Nothing in this instruction set is signed, and every value is an unsigned number.
-/

namespace Sys2Proof

/-- An 8-bit value: a memory byte, a general register, a timer (10 R20, R31, R34). -/
abbrev Byte := BitVec 8

/-- A 16-bit value: PC, I, a stack slot, an instruction word (10 R24, R28, R29, R35). -/
abbrev Word := BitVec 16

/-- The number of a general register, V0 to VF (10 R20). -/
abbrev Reg := Fin 16

end Sys2Proof
end

