-- ==== Sys2Proof/Config.lean ====
section
/-!
DEFINITION. What is fixed for the hardware (00 R6), what the spec leaves as an argument of the model (00 R7),
and the one free value (40 R109).
-/

namespace Sys2Proof

/-- MEM_SIZE: addresses 0..4095 (00 R6, 20 R50). -/
abbrev memSize : Nat := 4096

/-- PROG_ORIGIN: where a ROM is loaded and where PC starts (00 R6, 10 R41). -/
abbrev progOrigin : Nat := 0x200

/-- The longest ROM the loader takes: MEM_SIZE - PROG_ORIGIN = 3584 bytes (00 R6, 20 R58). -/
abbrev maxRom : Nat := memSize - progOrigin

/-- The bytes of the font: 16 glyphs of 5 bytes (20 R55). -/
abbrev fontSize : Nat := 80

/-- FB columns (10 R33). -/
abbrev fbCols : Nat := 64

/-- FB rows (10 R33). -/
abbrev fbRows : Nat := 32

/-- FB cells, in row-major order (10 R33). -/
abbrev fbCells : Nat := 2048

/-- FX55_BOUND: whether Fx55 stores V0..V(x-1) or V0..Vx (00 R7, 43 R176). -/
inductive Fx55Bound where
  | exclusive
  | inclusive
deriving DecidableEq, Repr

/-- The three values the spec leaves to the implementation and says the model takes as arguments (00 R7).
The state carries them unchanged, because the step's form leaves no other place for an argument (log 2). -/
structure Params where
  /-- FONT_BASE, the address of glyph 0. The bound is the spec's constraint FONT_BASE + 80 <= PROG_ORIGIN. -/
  fontBase : Fin (progOrigin - fontSize + 1)
  /-- FONT_DATA, the 80 glyph bytes. -/
  fontData : Vector Byte fontSize
  /-- FX55_BOUND. -/
  fx55Bound : Fx55Bound
deriving DecidableEq, Repr

/-- FREE VALUE (log 4): the byte the random source supplies for the n-th draw (40 R109, 10 R38). It has no body:
every byte is possible at every draw, and nothing relates two draws. -/
opaque Config.randomByte : Nat → Byte

end Sys2Proof
end

