-- ==== Sys2Proof/Syntax.lean ====
section
/-!
DEFINITION. The instructions: one constructor per row of spec/opcode_table.json, in the table's order
(34 instructions and the no-op executor, 00 R1). The operands are the fields of 30 R71: x and y as register numbers,
kk as a byte, nnn as a 12-bit address, n as a count 0..15.
-/

namespace Sys2Proof

/-- The 35 executors (30 R74, R75). Bits the decoder ignores (30 R76) are not kept. -/
inductive Instr where
  /-- 00E0 CLS (44 R190). -/
  | cls
  /-- 00EE RET (41 R120). -/
  | ret
  /-- 1nnn JP nnn (41 R121). -/
  | jp (nnn : BitVec 12)
  /-- 2nnn CALL nnn (41 R122). -/
  | call (nnn : BitVec 12)
  /-- 3xkk SE Vx, kk (41 R125). -/
  | seImm (x : Reg) (kk : Byte)
  /-- 4xkk SNE Vx, kk (41 R126). -/
  | sneImm (x : Reg) (kk : Byte)
  /-- 5xy0 SE Vx, Vy (41 R127). -/
  | seReg (x y : Reg)
  /-- 6xkk LD Vx, kk (42 R141). -/
  | ldImm (x : Reg) (kk : Byte)
  /-- 7xkk ADD Vx, kk (42 R142). -/
  | addImm (x : Reg) (kk : Byte)
  /-- 8xy0 LD Vx, Vy (42 R143). -/
  | ldReg (x y : Reg)
  /-- 8xy1 OR Vx, Vy (42 R144). -/
  | or (x y : Reg)
  /-- 8xy2 AND Vx, Vy (42 R145). -/
  | and (x y : Reg)
  /-- 8xy3 XOR Vx, Vy (42 R146). -/
  | xor (x y : Reg)
  /-- 8xy4 ADD Vx, Vy (42 R147). -/
  | add (x y : Reg)
  /-- 8xy5 SUB Vx, Vy (42 R148). -/
  | sub (x y : Reg)
  /-- 8xy6 SHR Vx; y is decoded but ignored (42 R149). -/
  | shr (x y : Reg)
  /-- 8xy7 SUBN Vx, Vy (42 R150). -/
  | subn (x y : Reg)
  /-- 8xyE SHL Vx; y is decoded but ignored (42 R151). -/
  | shl (x y : Reg)
  /-- 9xy0 SNE Vx, Vy (41 R128). -/
  | sneReg (x y : Reg)
  /-- Annn LD I, nnn (43 R172). -/
  | ldI (nnn : BitVec 12)
  /-- Bnnn JP V0, nnn (41 R123). -/
  | jpV0 (nnn : BitVec 12)
  /-- Cxkk RND Vx, kk (42 R152). -/
  | rnd (x : Reg) (kk : Byte)
  /-- Dxyn DRW Vx, Vy, n (44 R192). -/
  | drw (x y : Reg) (n : Fin 16)
  /-- Ex9E SKP Vx (45 R200). -/
  | skp (x : Reg)
  /-- ExA1 SKNP Vx (45 R201). -/
  | sknp (x : Reg)
  /-- Fx07 LD Vx, DT (45 R203). -/
  | ldVxDt (x : Reg)
  /-- Fx0A LD Vx, K (45 R202). -/
  | ldVxK (x : Reg)
  /-- Fx15 LD DT, Vx (45 R204). -/
  | ldDtVx (x : Reg)
  /-- Fx18 LD ST, Vx (45 R205). -/
  | ldStVx (x : Reg)
  /-- Fx1E ADD I, Vx (43 R173). -/
  | addI (x : Reg)
  /-- Fx29 LD F, Vx (43 R174). -/
  | ldF (x : Reg)
  /-- Fx33 LD B, Vx (43 R175). -/
  | ldB (x : Reg)
  /-- Fx55 LD [I], Vx (43 R176). -/
  | stRegs (x : Reg)
  /-- Fx65 LD Vx, [I] (43 R177). -/
  | ldRegs (x : Reg)
  /-- The no-op executor (40 R110). It has no canonical word and is written as a data word (30 R81, R82),
  so the constructor carries the word that selected it. -/
  | nop (word : Word)
deriving DecidableEq, Repr

end Sys2Proof
end

