-- ==== Sys2Proof/WellFormed.lean ====
section
/-!
DEFINITION. When a term of Instr is an instruction of the hardware. The operand types carry the field widths of
30 R71, so one check is left: the word of a no-op selects no instruction (30 R75, R82; log 11).
-/

namespace Sys2Proof

/-- The words whose dispatch slot holds the no-op executor (30 R74, R75), written from the tables as the slots NOT
listed there: low nibble for p = 0, 8 and E, low byte for p = F. -/
def isNopWord (op : Word) : Bool :=
  let low := op.extractLsb' 0 4
  let kk := op.extractLsb' 0 8
  match (op.extractLsb' 12 4).toNat with
  | 0x0 => !([0x0#4, 0xE#4].contains low)
  | 0x8 => !([0x0#4, 0x1#4, 0x2#4, 0x3#4, 0x4#4, 0x5#4, 0x6#4, 0x7#4, 0xE#4].contains low)
  | 0xE => !([0x1#4, 0xE#4].contains low)
  | 0xF => !([0x07#8, 0x0A#8, 0x15#8, 0x18#8, 0x1E#8, 0x29#8, 0x33#8, 0x55#8, 0x65#8].contains kk)
  | _ => false

/-- Well-formed: a no-op carries a word that selects the no-op; every other term is well-formed by its types. -/
def Instr.wf : Instr → Bool
  | .nop op => isNopWord op
  | .cls => true
  | .ret => true
  | .jp _ => true
  | .call _ => true
  | .seImm _ _ => true
  | .sneImm _ _ => true
  | .seReg _ _ => true
  | .ldImm _ _ => true
  | .addImm _ _ => true
  | .ldReg _ _ => true
  | .or _ _ => true
  | .and _ _ => true
  | .xor _ _ => true
  | .add _ _ => true
  | .sub _ _ => true
  | .shr _ _ => true
  | .subn _ _ => true
  | .shl _ _ => true
  | .sneReg _ _ => true
  | .ldI _ => true
  | .jpV0 _ => true
  | .rnd _ _ => true
  | .drw _ _ _ => true
  | .skp _ => true
  | .sknp _ => true
  | .ldVxDt _ => true
  | .ldVxK _ => true
  | .ldDtVx _ => true
  | .ldStVx _ => true
  | .addI _ => true
  | .ldF _ => true
  | .ldB _ => true
  | .stRegs _ => true
  | .ldRegs _ => true

end Sys2Proof
end

