-- ==== Sys2Proof/Decode.lean ====
section
/-!
DEFINITION. The decoder (30 R70 to R80), the encoder (30 R75, R81) and the host's entry to the decoder.
The decoder is total on words (30 R79): every 16-bit word selects one of the 34 instructions or the no-op.
Among byte strings only those shorter than one word are rejected, by name.
-/

namespace Sys2Proof

/-- p = op[15:12], the primary selector (30 R71). -/
def fieldP (op : Word) : BitVec 4 := op.extractLsb' 12 4

/-- x = op[11:8], the first register number (30 R71). -/
def fieldX (op : Word) : Reg := (op.extractLsb' 8 4).toFin

/-- y = op[7:4], the second register number (30 R71). -/
def fieldY (op : Word) : Reg := (op.extractLsb' 4 4).toFin

/-- n = op[3:0] as a count (30 R71, R73). -/
def fieldN (op : Word) : Fin 16 := (op.extractLsb' 0 4).toFin

/-- The low nibble, the selector of the sub-tables of p = 0, 8 and E (30 R74). -/
def fieldLow (op : Word) : BitVec 4 := op.extractLsb' 0 4

/-- kk = op[7:0] (30 R71), also the selector of the sub-table of p = F (30 R74). -/
def fieldKK (op : Word) : Byte := op.extractLsb' 0 8

/-- nnn = op[11:0] (30 R71). -/
def fieldNNN (op : Word) : BitVec 12 := op.extractLsb' 0 12

/-- Table0, selected by op[3:0] (30 R75). Bits 11:4 are ignored (30 R76). -/
def decodeTable0 (op : Word) : Instr :=
  match (fieldLow op).toNat with
  | 0x0 => .cls
  | 0xE => .ret
  | _ => .nop op

/-- Table8, selected by op[3:0] (30 R75). -/
def decodeTable8 (op : Word) : Instr :=
  match (fieldLow op).toNat with
  | 0x0 => .ldReg (fieldX op) (fieldY op)
  | 0x1 => .or (fieldX op) (fieldY op)
  | 0x2 => .and (fieldX op) (fieldY op)
  | 0x3 => .xor (fieldX op) (fieldY op)
  | 0x4 => .add (fieldX op) (fieldY op)
  | 0x5 => .sub (fieldX op) (fieldY op)
  | 0x6 => .shr (fieldX op) (fieldY op)
  | 0x7 => .subn (fieldX op) (fieldY op)
  | 0xE => .shl (fieldX op) (fieldY op)
  | _ => .nop op

/-- TableE, selected by op[3:0] (30 R75). Bits 7:4 are ignored (30 R76). -/
def decodeTableE (op : Word) : Instr :=
  match (fieldLow op).toNat with
  | 0x1 => .sknp (fieldX op)
  | 0xE => .skp (fieldX op)
  | _ => .nop op

/-- TableF, selected by op[7:0] (30 R75). -/
def decodeTableF (op : Word) : Instr :=
  match (fieldKK op).toNat with
  | 0x07 => .ldVxDt (fieldX op)
  | 0x0A => .ldVxK (fieldX op)
  | 0x15 => .ldDtVx (fieldX op)
  | 0x18 => .ldStVx (fieldX op)
  | 0x1E => .addI (fieldX op)
  | 0x29 => .ldF (fieldX op)
  | 0x33 => .ldB (fieldX op)
  | 0x55 => .stRegs (fieldX op)
  | 0x65 => .ldRegs (fieldX op)
  | _ => .nop op

/-- The decode function on a 16-bit word: the primary table (30 R74). The last arm is p = F. -/
def decodeWord (op : Word) : Instr :=
  match (fieldP op).toNat with
  | 0x0 => decodeTable0 op
  | 0x1 => .jp (fieldNNN op)
  | 0x2 => .call (fieldNNN op)
  | 0x3 => .seImm (fieldX op) (fieldKK op)
  | 0x4 => .sneImm (fieldX op) (fieldKK op)
  | 0x5 => .seReg (fieldX op) (fieldY op)
  | 0x6 => .ldImm (fieldX op) (fieldKK op)
  | 0x7 => .addImm (fieldX op) (fieldKK op)
  | 0x8 => decodeTable8 op
  | 0x9 => .sneReg (fieldX op) (fieldY op)
  | 0xA => .ldI (fieldNNN op)
  | 0xB => .jpV0 (fieldNNN op)
  | 0xC => .rnd (fieldX op) (fieldKK op)
  | 0xD => .drw (fieldX op) (fieldY op) (fieldN op)
  | 0xE => decodeTableE op
  | _ => decodeTableF op

/-- Two bytes of an instruction as its word: the byte at the lower address is the high byte (30 R70, 20 R53). -/
def wordOfBytes (hi lo : Byte) : Word := hi ++ lo

/-- The byte of a word that stands at the lower address. -/
def highByte (op : Word) : Byte := op.extractLsb' 8 8

/-- The byte of a word that stands at the higher address. -/
def lowByte (op : Word) : Byte := op.extractLsb' 0 8

/-- Why a byte string holds no instruction: it ends before its first word does. No word is refused (30 R78, R79). -/
inductive DecodeError where
  | endOfBytes
deriving DecidableEq, Repr

/-- Decode the instruction at the head of a byte string and give back the rest. Exactly two bytes are consumed
(30 R70). -/
def decode : List Byte → Except DecodeError (Instr × List Byte)
  | hi :: lo :: rest => .ok (decodeWord (wordOfBytes hi lo), rest)
  | [_] => .error .endOfBytes
  | [] => .error .endOfBytes

/-- A word of format A: p and nnn (30 R72). -/
def wordPNNN (p : BitVec 4) (nnn : BitVec 12) : Word := p ++ nnn

/-- A word of format XK: p, x and kk (30 R72). -/
def wordPXKK (p : BitVec 4) (x : Reg) (kk : Byte) : Word := p ++ (BitVec.ofFin x : BitVec 4) ++ kk

/-- A word of format XY or XYN: p, x, y and the low nibble (30 R72). -/
def wordPXYN (p : BitVec 4) (x y : Reg) (n : BitVec 4) : Word :=
  p ++ (BitVec.ofFin x : BitVec 4) ++ (BitVec.ofFin y : BitVec 4) ++ n

/-- The encoder: the canonical word of each instruction, the ignored bits as in 30 R75's last column (30 R81);
a no-op is written as its data word (30 R82). -/
def encode : Instr → Word
  | .cls => 0x00E0#16
  | .ret => 0x00EE#16
  | .jp nnn => wordPNNN 0x1#4 nnn
  | .call nnn => wordPNNN 0x2#4 nnn
  | .seImm x kk => wordPXKK 0x3#4 x kk
  | .sneImm x kk => wordPXKK 0x4#4 x kk
  | .seReg x y => wordPXYN 0x5#4 x y 0x0#4
  | .ldImm x kk => wordPXKK 0x6#4 x kk
  | .addImm x kk => wordPXKK 0x7#4 x kk
  | .ldReg x y => wordPXYN 0x8#4 x y 0x0#4
  | .or x y => wordPXYN 0x8#4 x y 0x1#4
  | .and x y => wordPXYN 0x8#4 x y 0x2#4
  | .xor x y => wordPXYN 0x8#4 x y 0x3#4
  | .add x y => wordPXYN 0x8#4 x y 0x4#4
  | .sub x y => wordPXYN 0x8#4 x y 0x5#4
  | .shr x y => wordPXYN 0x8#4 x y 0x6#4
  | .subn x y => wordPXYN 0x8#4 x y 0x7#4
  | .shl x y => wordPXYN 0x8#4 x y 0xE#4
  | .sneReg x y => wordPXYN 0x9#4 x y 0x0#4
  | .ldI nnn => wordPNNN 0xA#4 nnn
  | .jpV0 nnn => wordPNNN 0xB#4 nnn
  | .rnd x kk => wordPXKK 0xC#4 x kk
  | .drw x y n => wordPXYN 0xD#4 x y (BitVec.ofFin n)
  | .skp x => wordPXKK 0xE#4 x 0x9E#8
  | .sknp x => wordPXKK 0xE#4 x 0xA1#8
  | .ldVxDt x => wordPXKK 0xF#4 x 0x07#8
  | .ldVxK x => wordPXKK 0xF#4 x 0x0A#8
  | .ldDtVx x => wordPXKK 0xF#4 x 0x15#8
  | .ldStVx x => wordPXKK 0xF#4 x 0x18#8
  | .addI x => wordPXKK 0xF#4 x 0x1E#8
  | .ldF x => wordPXKK 0xF#4 x 0x29#8
  | .ldB x => wordPXKK 0xF#4 x 0x33#8
  | .stRegs x => wordPXKK 0xF#4 x 0x55#8
  | .ldRegs x => wordPXKK 0xF#4 x 0x65#8
  | .nop op => op

/-- The bytes of an instruction as memory holds them, the high byte first (30 R70). -/
def encodeBytes (i : Instr) : List Byte := [highByte (encode i), lowByte (encode i)]

/-- The instruction the decoder reads from a word given as a number, bit 0 the least significant bit of the one
16-bit word; the bits at and above nbits are 0. -/
def decodeTableWord (nbits w : Nat) : Option Instr :=
  let op : Word := BitVec.ofNat 16 (w % 2 ^ nbits)
  match decode [highByte op, lowByte op] with
  | .ok (i, _) => some i
  | .error _ => none

end Sys2Proof
end

