-- ==== Sys2Proof/Machine/Params.lean ====
section
/-!
DEFINITION. The spec's default values of the three arguments of the model (00 R7, 20 R55).
-/

namespace Sys2Proof.Machine

/-- Glyphs 0 to 7 of the default FONT_DATA (20 R55). -/
def fontGlyphs0to7 : Vector Byte 40 := #v[
  0xF0, 0x90, 0x90, 0x90, 0xF0,
  0x20, 0x60, 0x20, 0x20, 0x70,
  0xF0, 0x10, 0xF0, 0x80, 0xF0,
  0xF0, 0x10, 0xF0, 0x10, 0xF0,
  0x90, 0x90, 0xF0, 0x10, 0x10,
  0xF0, 0x80, 0xF0, 0x10, 0xF0,
  0xF0, 0x80, 0xF0, 0x90, 0xF0,
  0xF0, 0x10, 0x20, 0x40, 0x40]

/-- Glyphs 8 to F of the default FONT_DATA (20 R55). -/
def fontGlyphs8toF : Vector Byte 40 := #v[
  0xF0, 0x90, 0xF0, 0x90, 0xF0,
  0xF0, 0x90, 0xF0, 0x10, 0xF0,
  0xF0, 0x90, 0xF0, 0x90, 0x90,
  0xE0, 0x90, 0xE0, 0x90, 0xE0,
  0xF0, 0x80, 0x80, 0x80, 0xF0,
  0xE0, 0x90, 0x90, 0x90, 0xE0,
  0xF0, 0x80, 0xF0, 0x80, 0xF0,
  0xF0, 0x80, 0xF0, 0x80, 0x80]

/-- The defaults of 00 R7: FONT_BASE = 0x050, the standard FONT_DATA, FX55_BOUND = EXCLUSIVE (log 2, 13). -/
def defaultParams : Params where
  fontBase := 0x050
  fontData := fontGlyphs0to7 ++ fontGlyphs8toF
  fx55Bound := .exclusive

end Sys2Proof.Machine
end

