-- ==== Sys2Proof/Machine/State.lean ====
section
/-!
DEFINITION. The state of the core (10 R44), the inputs it samples, the reasons a step can stop, and reset (70 R250).
-/

namespace Sys2Proof.Machine

/-- FAULT_CAUSE, by the names of 60 R223. The 4-bit codes are `FaultCause.code`. -/
inductive FaultCause where
  /-- Code 0: no fault. -/
  | none
  /-- Code 1: the fetch, PC > 0x0FFE (60 R224). -/
  | fetchOor
  /-- Code 2: Dxyn and Fx65, a byte address past 0x0FFF. -/
  | memReadOor
  /-- Code 3: Fx33 and Fx55, a byte address past 0x0FFF. -/
  | memWriteOor
  /-- Code 4: 2nnn with SP = 16. -/
  | stackOverflow
  /-- Code 5: 00EE with SP = 0. -/
  | stackUnderflow
  /-- Code 6: Dxyn, a set sprite bit past cell 2047. -/
  | fbOor
  /-- Code 7: Ex9E and ExA1, V[x] > 15. -/
  | keyOor
deriving DecidableEq, Repr

/-- LOAD_STATUS, the result of the last ROM load (10 R37). -/
inductive LoadStatus where
  | none
  | ok
  | tooLarge
deriving DecidableEq, Repr

/-- What the host can do between two Cycles (60 R234, R235). -/
inductive HostAction where
  /-- The command `reset` (70 R250). -/
  | reset
  /-- The command `load(bytes)` (20 R57, R58). -/
  | load (bytes : List Byte)
  /-- The host's input layer writes KEY; bit k is KEY[k] (10 R32). -/
  | setKey (key : BitVec 16)
  /-- The command `cycle` (40 R100). -/
  | cycle
deriving DecidableEq, Repr

/-- The state record of 10 R44, the input KEY, the latch OPCODE, and the model's own fields (log 2, 4, 5). -/
structure State where
  /-- Memory: the bytes that differ from the reset contents, in one canonical form (20 R50; log 7). -/
  mem : List Host.Cell
  /-- V0..VF (10 R20). VF is `v[15]` (10 R21). -/
  v : Vector Byte 16
  /-- The index register I (10 R28). -/
  i : Word
  /-- The program counter (10 R24). -/
  pc : Word
  /-- The stack pointer, 0..16, the number of occupied slots (10 R29). -/
  sp : Fin 17
  /-- STACK[0..15] (10 R29). -/
  stack : Vector Word 16
  /-- The delay timer (10 R31). -/
  dt : Byte
  /-- The sound timer (10 R31). -/
  st : Byte
  /-- The framebuffer: bit p is cell FB[p], row-major (10 R33, 60 R234). -/
  fb : BitVec 2048
  /-- KEY as the host last wrote it; bit k is KEY[k] (10 R32, 60 R234). -/
  key : BitVec 16
  /-- OPCODE, the word the fetch of the last Cycle latched (10 R35). -/
  opcode : Word
  /-- HALTED (10 R36). -/
  halted : Bool
  /-- FAULT_CAUSE (10 R36). -/
  faultCause : FaultCause
  /-- FAULT_PC (10 R36). -/
  faultPc : Word
  /-- FAULT_OPCODE (10 R36). -/
  faultOpcode : Word
  /-- FAULT_ADDR, 17 bits (10 R36). -/
  faultAddr : BitVec 17
  /-- LOADED (10 R37). -/
  loaded : Bool
  /-- LOAD_STATUS (10 R37). -/
  loadStatus : LoadStatus
  /-- THE MODEL'S OWN: FONT_BASE, FONT_DATA and FX55_BOUND, which no step changes (00 R7; log 2). -/
  params : Params
  /-- THE MODEL'S OWN: how many random bytes have been taken; it indexes `Config.randomByte` (log 4). -/
  draws : Nat
  /-- THE MODEL'S OWN: the host's actions still to come, the first one next; when there is none, the host issues
  `cycle` (log 5). -/
  pending : List HostAction
deriving DecidableEq, Repr

/-- The reasons for which the machine would stop outside its own state. THERE IS NONE: every fault of the spec is a
precise fault that halts the core INSIDE its state (60 R222), so it is a next state (log 1). Nobody raises a `Fault`. -/
inductive Fault : Type
deriving DecidableEq, Repr

/-- The reasons for having no meaning. -/
inductive Refusal where
  /-- Raised by an arm of `exec` whose instruction has no meaning yet; safe. No arm raises it: all 35 have one. -/
  | notModelled (mnemonic : String)
deriving DecidableEq, Repr

/-- The machine right after reset (70 R250; 10 R41, R42): memory at its reset contents (nothing listed), PC at
PROG_ORIGIN, every other register and status field 0, NONE or off. KEY, which reset does not change, is all 0 here
(log 3); the model's own fields are the default arguments, no draw taken, no host action pending (log 2, 4, 5). -/
def State.reset : State where
  mem := []
  v := Vector.replicate 16 0
  i := 0
  pc := 0x200
  sp := 0
  stack := Vector.replicate 16 0
  dt := 0
  st := 0
  fb := 0
  key := 0
  opcode := 0
  halted := false
  faultCause := .none
  faultPc := 0
  faultOpcode := 0
  faultAddr := 0
  loaded := false
  loadStatus := .none
  params := defaultParams
  draws := 0
  pending := []

end Sys2Proof.Machine
end

