-- ==== Sys2Proof/Machine/Ops.lean ====
section
/-!
DEFINITION. The named operations over memory and registers, and taking a fault (60 R222), written once.
There is no return from a fault (60 R226): the way out, the host's reset, stands beside it.
-/

namespace Sys2Proof.Machine

/-- What a meaning and a step answer. -/
abbrev Result := Host.Outcome State Fault Refusal

/-! ### Memory (20 R50 to R56) -/

/-- What a byte that memory does not list reads as: the reset contents, FONT_DATA at FONT_BASE and zero elsewhere
(10 R41, 20 R55; log 7). -/
def Memory.unlisted (p : Params) (a : Nat) : Byte :=
  if h : p.fontBase.val ≤ a ∧ a < p.fontBase.val + fontSize then p.fontData[a - p.fontBase.val]'(by omega) else 0

/-- The byte listed at an address, if there is one. -/
def Memory.lookup : List Host.Cell → Nat → Option Byte
  | [], _ => none
  | (b, w) :: m, a => if a = b then some w else Memory.lookup m a

/-- MemRead: the byte at an address (00 R10, 20 R52). The instruction has checked the address (20 R52). -/
def Memory.read (p : Params) (m : List Host.Cell) (a : Nat) : Byte :=
  (Memory.lookup m a).getD (Memory.unlisted p a)

/-- A cell put before a list, unless it holds what an unlisted address reads as. -/
def Memory.cons (p : Params) (a : Nat) (v : Byte) (m : List Host.Cell) : List Host.Cell :=
  if v = Memory.unlisted p a then m else (a, v) :: m

/-- A byte put at an address, keeping addresses rising and no cell equal to what it reads as unlisted. -/
def Memory.insert (p : Params) : List Host.Cell → Nat → Byte → List Host.Cell
  | [], a, v => Memory.cons p a v []
  | (b, w) :: m, a, v =>
    if a < b then Memory.cons p a v ((b, w) :: m)
    else if a = b then Memory.cons p a v m
    else (b, w) :: Memory.insert p m a v

/-- MemWrite (00 R10, 20 R52). The instruction has checked the address; outside memory nothing is written (log 8). -/
def Memory.write (p : Params) (m : List Host.Cell) (a : Nat) (v : Byte) : List Host.Cell :=
  if a < memSize then Memory.insert p m a v else m

/-- Every cell stands at or after `lo`, inside memory, in rising order, and differs from its unlisted reading. -/
def Memory.wfFrom (p : Params) (lo : Nat) : List Host.Cell → Bool
  | [] => true
  | (a, v) :: m => decide (lo ≤ a ∧ a < memSize ∧ v ≠ Memory.unlisted p a) && Memory.wfFrom p (a + 1) m

/-- The canonical form of memory (log 7). -/
def Memory.wf (p : Params) (m : List Host.Cell) : Bool := Memory.wfFrom p 0 m

/-- The byte of memory at an address. -/
def readByte (s : State) (a : Nat) : Byte := Memory.read s.params s.mem a

/-- Write one byte of memory. -/
def writeByte (s : State) (a : Nat) (v : Byte) : State := { s with mem := Memory.write s.params s.mem a v }

/-- Write consecutive bytes from an address upward, the lowest address first. -/
def writeBytes (s : State) (a : Nat) : List Byte → State
  | [] => s
  | v :: vs => writeBytes (writeByte s a v) (a + 1) vs

/-! ### Registers (10 R20 to R31) -/

/-- V[x] (00 R10). -/
def getV (s : State) (x : Reg) : Byte := s.v[x]

/-- `V[x] <- b` (00 R10). -/
def setV (s : State) (x : Reg) (b : Byte) : State := { s with v := s.v.set x b }

/-- VF, the 16th general register (10 R21). -/
abbrev vf : Reg := 15

/-- `I <- a`. -/
def setI (s : State) (a : Word) : State := { s with i := a }

/-- `PC <- target`. -/
def setPc (s : State) (target : Word) : State := { s with pc := target }

/-- `DT <- b` (10 R31). -/
def setDt (s : State) (b : Byte) : State := { s with dt := b }

/-- `ST <- b` (10 R31). -/
def setSt (s : State) (b : Byte) : State := { s with st := b }

/-- Replace the framebuffer (10 R33). -/
def setFb (s : State) (cells : BitVec 2048) : State := { s with fb := cells }

/-- A push: `STACK[SP] <- PC`, then `SP <- SP + 1` (10 R30). The instruction has checked SP < 16. -/
def pushPc (s : State) (h : s.sp.val < 16) : State :=
  { s with stack := s.stack.set s.sp.val s.pc, sp := ⟨s.sp.val + 1, by omega⟩ }

/-- A pop: `SP <- SP - 1`, then `PC <- STACK[SP]`; the slot keeps its value (10 R30). The instruction has checked
SP > 0. -/
def popPc (s : State) (h : 0 < s.sp.val) : State :=
  { s with sp := ⟨s.sp.val - 1, by omega⟩, pc := s.stack[s.sp.val - 1]'(by omega) }

/-! ### Taking a fault (60 R222) -/

/-- `raise Fault(cause, addr)` in a Cycle whose fetch address was `a` and whose opcode was `op` (60 R222): the fault
record is written, HALTED is set and PC is the address of the faulting instruction. Every check stands before the
first write, so there is no other write of the executor to discard; the OPCODE latch and the skipped timer tick are
`finishCycle`'s. LOADED stays as the Cycle set it. -/
def takeFault (s : State) (a op : Word) (cause : FaultCause) (addr : Nat) : State :=
  { s with
    pc := a
    halted := true
    faultCause := cause
    faultPc := a
    faultOpcode := op
    faultAddr := BitVec.ofNat 17 addr }

/-- A fault raised by an executor: it runs after the fetch, so the fetch address is PC - 2 (10 R24) and the
instruction's word is in OPCODE (10 R35). -/
def raiseFault (s : State) (cause : FaultCause) (addr : Nat) : State :=
  takeFault s (s.pc - 2) s.opcode cause addr

/-- The host's command `reset` (70 R250), the only way out of HALTED (60 R226). KEY is the host's and stays (10 R42);
so do the model's own fields (log 10). -/
def hostReset (s : State) : State :=
  { State.reset with key := s.key, params := s.params, draws := s.draws, pending := s.pending }

end Sys2Proof.Machine
end

