-- ==== Sys2Proof/Machine/Operands.lean ====
section
/-!
DEFINITION. The operand forms: zero-extended immediates (30 R73), the blocks of bytes an instruction reaches through I
(43 R170, R171), the key an instruction names (45 R200, R202), the skip (41 R124) and the random byte (40 R109).
-/

namespace Sys2Proof.Machine

/-- zext_16 of a 12-bit address (30 R73). -/
def zext16 (nnn : BitVec 12) : Word := nnn.setWidth 16

/-- The address of the k-th byte of an access through I: I + k, exact, not reduced (43 R170). -/
def blockAddr (s : State) (k : Nat) : Nat := s.i.toNat + k

/-- Whether an access to `count` bytes from I reaches past the last address. An access of zero bytes checks nothing
(43 R171, 20 R52). -/
def blockOor (s : State) (count : Nat) : Bool := decide (0 < count ∧ memSize < s.i.toNat + count)

/-- The first address out of range of such an access: max(I, 0x1000) (43 R171). -/
def firstOor (s : State) : Nat := max s.i.toNat memSize

/-- An executor that reaches `count` bytes from I: the fault if one of them is out of range, else what it does.
The check comes before the first write (20 R52). -/
def withBlock (s : State) (cause : FaultCause) (count : Nat) (done : State) : Result :=
  if blockOor s count then .next (raiseFault s cause (firstOor s)) else .next done

/-- The skip: PC + 2 mod 2^16 when the predicate holds (41 R124). -/
def skipIf (s : State) (holds : Bool) : State := if holds then setPc s (s.pc + 2) else s

/-- KEY[k] (00 R10). -/
def keyHeld (s : State) (k : Nat) : Bool := s.key.getLsbD k

/-- An executor that reads the key V[x] names: KEY_OOR if V[x] > 15, else a skip decided by that key (45 R200,
R201). -/
def skipOnKey (s : State) (x : Reg) (wanted : Bool) : Result :=
  if 15 < (getV s x).toNat then .next (raiseFault s .keyOor (getV s x).toNat)
  else .next (skipIf s (keyHeld s (getV s x).toNat == wanted))

/-- The held key of the lowest number, scanning 0..15 in ascending order (45 R202). -/
def lowestKey (s : State) : Option Nat := (List.range 16).find? (keyHeld s)

/-- RND(): the next byte of the random source, a free value (40 R109; log 4). -/
def randomByte (s : State) : Byte := Config.randomByte s.draws

/-- The state after a draw: only the model's own index of the free value has moved on (10 R38). -/
def afterDraw (s : State) : State := { s with draws := s.draws + 1 }

/-- How many registers Fx55 stores: x or x + 1, by FX55_BOUND (43 R176). -/
def storeCount (s : State) (x : Reg) : Nat :=
  match s.params.fx55Bound with
  | .exclusive => x.val
  | .inclusive => x.val + 1

/-- `for k in 0 .. count-1: V[k] <- MemRead(I + k, 1)` (43 R177). -/
def loadRegs (s : State) : Nat → State
  | 0 => s
  | k + 1 => setV (loadRegs s k) (Fin.ofNat 16 k) (readByte s (blockAddr s k))

/-- The three decimal digits of a byte, hundreds first (43 R175). -/
def bcdDigits (b : Byte) : List Byte :=
  [BitVec.ofNat 8 (b.toNat / 100), BitVec.ofNat 8 (b.toNat / 10 % 10), BitVec.ofNat 8 (b.toNat % 10)]

end Sys2Proof.Machine
end

