-- ==== Sys2Proof/Machine/Flags.lean ====
section
/-!
DEFINITION. The flag computations (10 R21): VF is the only flag (10 R23).
-/

namespace Sys2Proof.Machine

/-- A flag as VF holds it: 1 or 0. -/
def flagByte (b : Bool) : Byte := if b then 1 else 0

/-- Carry: the 9-bit sum exceeds 255 (42 R147). -/
def carryOut (a b : Byte) : Bool := decide (255 < a.toNat + b.toNat)

/-- Not borrow, for minuend a and subtrahend b: a > b, STRICTLY (42 R148, R150; 90 C1). -/
def noBorrow (a b : Byte) : Bool := decide (b.toNat < a.toNat)

/-- The bit a right shift moves out (42 R149). -/
def outRight (a : Byte) : Bool := a.getLsbD 0

/-- The bit a left shift moves out (42 R151). -/
def outLeft (a : Byte) : Bool := a.getLsbD 7

/-- The flag first, then the result, so that with x = F the result stays and the flag is lost (10 R22). -/
def setFlagged (s : State) (x : Reg) (result : Byte) (flag : Bool) : State :=
  setV (setV s vf (flagByte flag)) x result

end Sys2Proof.Machine
end

