-- ==== Sys2Proof/Machine/Alu.lean ====
section
/-!
DEFINITION. The load and arithmetic executors (42 R141 to R152). All arithmetic is on 8-bit unsigned values mod 256
(42 R140); operands are read before any write (00 R11).
-/

namespace Sys2Proof.Machine

/-- LD Vx, kk (42 R141). -/
def execLdImm (x : Reg) (kk : Byte) (s : State) : Result := .next (setV s x kk)

/-- ADD Vx, kk: no flag (42 R142). -/
def execAddImm (x : Reg) (kk : Byte) (s : State) : Result := .next (setV s x (getV s x + kk))

/-- LD Vx, Vy (42 R143). -/
def execLdReg (x y : Reg) (s : State) : Result := .next (setV s x (getV s y))

/-- OR Vx, Vy (42 R144). -/
def execOr (x y : Reg) (s : State) : Result := .next (setV s x (getV s x ||| getV s y))

/-- AND Vx, Vy (42 R145). -/
def execAnd (x y : Reg) (s : State) : Result := .next (setV s x (getV s x &&& getV s y))

/-- XOR Vx, Vy (42 R146). -/
def execXor (x y : Reg) (s : State) : Result := .next (setV s x (getV s x ^^^ getV s y))

/-- ADD Vx, Vy (42 R147). -/
def execAdd (x y : Reg) (s : State) : Result :=
  .next (setFlagged s x (getV s x + getV s y) (carryOut (getV s x) (getV s y)))

/-- SUB Vx, Vy: Vx is the minuend (42 R148). -/
def execSub (x y : Reg) (s : State) : Result :=
  .next (setFlagged s x (getV s x - getV s y) (noBorrow (getV s x) (getV s y)))

/-- SHR Vx: y is ignored (42 R149). -/
def execShr (x : Reg) (s : State) : Result := .next (setFlagged s x (getV s x >>> 1) (outRight (getV s x)))

/-- SUBN Vx, Vy: Vy is the minuend (42 R150). -/
def execSubn (x y : Reg) (s : State) : Result :=
  .next (setFlagged s x (getV s y - getV s x) (noBorrow (getV s y) (getV s x)))

/-- SHL Vx: y is ignored (42 R151). -/
def execShl (x : Reg) (s : State) : Result := .next (setFlagged s x (getV s x <<< 1) (outLeft (getV s x)))

/-- RND Vx, kk (42 R152): the random byte is a free value (log 4). -/
def execRnd (x : Reg) (kk : Byte) (s : State) : Result := .next (setV (afterDraw s) x (randomByte s &&& kk))

end Sys2Proof.Machine
end

