-- ==== Sys2Proof/Machine/ControlFlow.lean ====
section
/-!
DEFINITION. The no-op executor (40 R110) and the executors that write PC or the stack (41 R120 to R128).
Every executor runs after the fetch: PC holds the fetch address + 2 (40 R102).
-/

namespace Sys2Proof.Machine

/-- NOP: no write (40 R110). -/
def execNop (s : State) : Result := .next s

/-- RET (41 R120). -/
def execRet (s : State) : Result :=
  if h : 0 < s.sp.val then .next (popPc s h) else .next (raiseFault s .stackUnderflow 0)

/-- JP nnn (41 R121). -/
def execJp (nnn : BitVec 12) (s : State) : Result := .next (setPc s (zext16 nnn))

/-- CALL nnn (41 R122): the pushed value is PC after the fetch. -/
def execCall (nnn : BitVec 12) (s : State) : Result :=
  if h : s.sp.val < 16 then .next (setPc (pushPc s h) (zext16 nnn)) else .next (raiseFault s .stackOverflow 16)

/-- JP V0, nnn (41 R123): the sum is taken mod 2^16, not mod 2^12. -/
def execJpV0 (nnn : BitVec 12) (s : State) : Result := .next (setPc s (zext16 nnn + (getV s 0).setWidth 16))

/-- SE Vx, kk (41 R125). -/
def execSeImm (x : Reg) (kk : Byte) (s : State) : Result := .next (skipIf s (getV s x == kk))

/-- SNE Vx, kk (41 R126). -/
def execSneImm (x : Reg) (kk : Byte) (s : State) : Result := .next (skipIf s (getV s x != kk))

/-- SE Vx, Vy (41 R127). -/
def execSeReg (x y : Reg) (s : State) : Result := .next (skipIf s (getV s x == getV s y))

/-- SNE Vx, Vy (41 R128). -/
def execSneReg (x y : Reg) (s : State) : Result := .next (skipIf s (getV s x != getV s y))

end Sys2Proof.Machine
end

