-- ==== Sys2Proof/Machine/Display.lean ====
section
/-!
DEFINITION. The two executors that write the framebuffer (44 R190 to R192).
-/

namespace Sys2Proof.Machine

/-- FB[p] (00 R10). -/
def fbCell (fb : BitVec 2048) (p : Nat) : Bool := fb.getLsbD p

/-- `FB[p] <- FB[p] XOR 1`. -/
def toggleCell (fb : BitVec 2048) (p : Nat) : BitVec 2048 := fb ^^^ (1#2048 <<< p)

/-- p(r, c): the cell of sprite row r and sprite column c. Only the origin wraps (44 R191). -/
def pixelCell (ox oy r c : Nat) : Nat := (oy + r) * fbCols + (ox + c)

/-- The cells the set bits of one sprite byte map to, the leftmost pixel (bit 7) first (44 R191). -/
def rowCells (b : Byte) (ox oy r : Nat) : List Nat :=
  ((List.range 8).filter fun c => b.getLsbD (7 - c)).map fun c => pixelCell ox oy r c

/-- The cells the set bits of a sprite of n rows at I map to, in row-major order (44 R192). -/
def spriteCells (s : State) (ox oy n : Nat) : List Nat :=
  (List.range n).flatMap fun r => rowCells (readByte s (blockAddr s r)) ox oy r

/-- Toggle cells one after another, keeping whether one of them was on (44 R192). -/
def drawCells (fb : BitVec 2048) (hit : Bool) : List Nat → BitVec 2048 × Bool
  | [] => (fb, hit)
  | p :: ps => drawCells (toggleCell fb p) (hit || fbCell fb p) ps

/-- CLS: every cell off (44 R190). -/
def execCls (s : State) : Result := .next (setFb s 0)

/-- The draw of DRW once the sprite bytes are known to lie in memory: FB_OOR for the first set bit past the last cell,
else FB toggled and VF the collision (44 R192, 60 R225). -/
def drawSprite (s : State) (cells : List Nat) : State :=
  match cells.find? fun p => decide (fbCells ≤ p) with
  | some p => raiseFault s .fbOor p
  | none => setV (setFb s (drawCells s.fb false cells).1) vf (flagByte (drawCells s.fb false cells).2)

/-- DRW Vx, Vy, n (44 R192): the origin wraps mod 64 and mod 32; MEM_READ_OOR comes before FB_OOR. -/
def execDrw (x y : Reg) (n : Fin 16) (s : State) : Result :=
  withBlock s .memReadOor n.val
    (drawSprite s (spriteCells s ((getV s x).toNat % fbCols) ((getV s y).toNat % fbRows) n.val))

end Sys2Proof.Machine
end

