-- ==== Sys2Proof/Machine/IndexMemory.lean ====
section
/-!
DEFINITION. The executors that set I and those that move bytes between the registers and memory through I
(43 R172 to R177). None of them changes I by an access (43 R170).
-/

namespace Sys2Proof.Machine

/-- LD I, nnn (43 R172). -/
def execLdI (nnn : BitVec 12) (s : State) : Result := .next (setI s (zext16 nnn))

/-- ADD I, Vx: mod 2^16, no flag (43 R173). -/
def execAddI (x : Reg) (s : State) : Result := .next (setI s (s.i + (getV s x).setWidth 16))

/-- LD F, Vx: FONT_BASE + 5 * V[x], V[x] used whole (43 R174). -/
def execLdF (x : Reg) (s : State) : Result :=
  .next (setI s (BitVec.ofNat 16 (s.params.fontBase.val + 5 * (getV s x).toNat)))

/-- LD B, Vx: the decimal digits of V[x] at I, I+1, I+2 (43 R175). -/
def execLdB (x : Reg) (s : State) : Result :=
  withBlock s .memWriteOor 3 (writeBytes s (blockAddr s 0) (bcdDigits (getV s x)))

/-- LD [I], Vx: the first registers from V0 on, as many as FX55_BOUND says (43 R176). -/
def execStRegs (x : Reg) (s : State) : Result :=
  withBlock s .memWriteOor (storeCount s x) (writeBytes s (blockAddr s 0) (s.v.toList.take (storeCount s x)))

/-- LD Vx, [I]: V0..Vx inclusive (43 R177). -/
def execLdRegs (x : Reg) (s : State) : Result := withBlock s .memReadOor (x.val + 1) (loadRegs s (x.val + 1))

end Sys2Proof.Machine
end

