-- ==== Sys2Proof/Machine/KeysTimers.lean ====
section
/-!
DEFINITION. The executors that read the keypad and those that read and write the timers (45 R200 to R205).
-/

namespace Sys2Proof.Machine

/-- SKP Vx (45 R200). -/
def execSkp (x : Reg) (s : State) : Result := skipOnKey s x true

/-- SKNP Vx (45 R201). -/
def execSknp (x : Reg) (s : State) : Result := skipOnKey s x false

/-- LD Vx, DT: DT before this Cycle's tick (45 R203). -/
def execLdVxDt (x : Reg) (s : State) : Result := .next (setV s x s.dt)

/-- LD Vx, K: the lowest held key, or PC back by 2 so that the next Cycle runs the instruction again (45 R202). -/
def execLdVxK (x : Reg) (s : State) : Result :=
  match lowestKey s with
  | some k => .next (setV s x (BitVec.ofNat 8 k))
  | none => .next (setPc s (s.pc - 2))

/-- LD DT, Vx (45 R204). -/
def execLdDtVx (x : Reg) (s : State) : Result := .next (setDt s (getV s x))

/-- LD ST, Vx (45 R205). -/
def execLdStVx (x : Reg) (s : State) : Result := .next (setSt s (getV s x))

end Sys2Proof.Machine
end

