-- ==== Sys2Proof/Machine/HostPort.lean ====
section
/-!
DEFINITION. The block's interface to the host (60 R234): the ROM loader, the input KEY, and the outputs.
-/

namespace Sys2Proof.Machine

/-- The command `load(bytes)` (20 R57, R58): no effect while LOADED = 1; a ROM longer than 3584 bytes is refused with
TOO_LARGE and writes nothing; else the bytes go to 0x200 and up. -/
def loadRom (s : State) (bytes : List Byte) : State :=
  if s.loaded then s
  else if maxRom < bytes.length then { s with loadStatus := .tooLarge }
  else { writeBytes s progOrigin bytes with loaded := true, loadStatus := .ok }

/-- The host's input layer writes KEY between Cycles (10 R32, 40 R107). -/
def writeKey (s : State) (key : BitVec 16) : State := { s with key := key }

/-- `fault_cause[3:0]`: the code of a cause (60 R223). -/
def FaultCause.code : FaultCause → BitVec 4
  | .none => 0
  | .fetchOor => 1
  | .memReadOor => 2
  | .memWriteOor => 3
  | .stackOverflow => 4
  | .stackUnderflow => 5
  | .fbOor => 6
  | .keyOor => 7

/-- `load_status[1:0]` (60 R234). -/
def LoadStatus.code : LoadStatus → BitVec 2
  | .none => 0
  | .ok => 1
  | .tooLarge => 2

/-- `sound_active`: 1 iff ST != 0 (60 R233). -/
def soundActive (s : State) : Bool := s.st != 0

/-- The framebuffer output: cell (c, r) is FB[r * 64 + c] (60 R232). -/
def fbOutput (s : State) (c r : Nat) : Bool := fbCell s.fb (r * fbCols + c)

end Sys2Proof.Machine
end

