-- ==== Sys2Proof/Machine/Cycle.lean ====
section
/-!
DEFINITION. The Cycle (40 R100): fetch, decode, execute, tick.
-/

namespace Sys2Proof.Machine

/-- The last address a fetch can start at: the word's second byte is the last byte of memory (40 R102). -/
abbrev lastFetch : Nat := 0x0FFE

/-- `MemRead(a, 1) * 256 + MemRead(a + 1, 1)` at a = PC (20 R53). -/
def fetchWord (s : State) : Word := wordOfBytes (readByte s s.pc.toNat) (readByte s (s.pc.toNat + 1))

/-- LOADED is set when a Cycle begins (10 R37). -/
def beginCycle (s : State) : State := { s with loaded := true }

/-- The fetch: OPCODE gets the word, PC the fetch address plus 2 (40 R102). -/
def afterFetch (s : State) : State := { s with opcode := fetchWord s, pc := s.pc + 2 }

/-- A timer after the tick (40 R108). -/
def countDown (t : Byte) : Byte := if t = 0 then 0 else t - 1

/-- The timer tick (40 R108). -/
def tick (s : State) : State := { s with dt := countDown s.dt, st := countDown s.st }

/-- The end of a Cycle that was `before` when it began: after a fault OPCODE is what it was and no timer ticks
(60 R222), else the timers tick (40 R100). -/
def finishCycle (before after : State) : State :=
  if after.halted then { after with opcode := before.opcode } else tick after

/-- FETCH_OOR (60 R224): FAULT_OPCODE is 0 and FAULT_ADDR is max(PC, 0x1000). -/
def fetchFault (s : State) : State := takeFault s s.pc 0 .fetchOor (max s.pc.toNat memSize)

/-- The executor of the fetched word and the end of the Cycle (40 R100). -/
def executeAndFinish (s : State) : Result :=
  match exec (decodeWord (fetchWord s)) (afterFetch s) with
  | .next t => .next (finishCycle s t)
  | .fault r => .fault r
  | .refused r => .refused r

/-- One Cycle (40 R100). A Cycle issued while HALTED changes nothing (40 R101). -/
def cycle (s : State) : Result :=
  if s.halted then .next s
  else if lastFetch < s.pc.toNat then .next (fetchFault (beginCycle s))
  else executeAndFinish (beginCycle s)

/-- One action of the host (60 R234). -/
def hostAction (act : HostAction) (s : State) : Result :=
  match act with
  | .reset => .next (hostReset s)
  | .load bytes => .next (loadRom s bytes)
  | .setKey key => .next (writeKey s key)
  | .cycle => cycle s

/-- The state in which the next step fetches the word `op` and runs it: no host action pending, not halted, PC at a
fetchable address (kept if it is one), and the word stored there (log 6). -/
def placeWord (s : State) (op : Word) : State :=
  let pc : Word := if lastFetch < s.pc.toNat then BitVec.ofNat 16 progOrigin else s.pc
  writeBytes { s with pc := pc, halted := false, pending := [] } pc.toNat [highByte op, lowByte op]

end Sys2Proof.Machine
end

