-- ==== Sys2Proof/Machine/Step.lean ====
section
/-!
DEFINITION. The step: the next action of the host, which is `cycle` when none is pending (60 R234; log 5).
-/

namespace Sys2Proof.Machine

/-- One step of the machine. -/
def step (s : State) : Host.Outcome State Fault Refusal :=
  match s.pending with
  | [] => cycle s
  | act :: rest => hostAction act { s with pending := rest }

/-- The state with the instruction whose bits are `w` stored where the next step fetches it (log 6). -/
def State.withFetchWord (s : State) (nbits w : Nat) : State := placeWord s (BitVec.ofNat 16 (w % 2 ^ nbits))

end Sys2Proof.Machine
end

