-- ==== Sys2Proof/Safety.lean ====
section
/-!
DEFINITION. What claims about runs are stated in: when a step is a Cycle that fetches, when a state is safe, and the
invariants of the state record.
-/

namespace Sys2Proof

open Machine

/-- A safe state: no fault has halted the core (10 R36, 60 R226). -/
abbrev Safe (s : State) : Prop := s.halted = false

/-- A Cycle issued in this state fetches and executes: the core is not halted and both bytes of the word lie in memory
(40 R100, R102). -/
abbrev Fetches (s : State) : Prop := s.halted = false ∧ s.pc.toNat ≤ 0x0FFE

/-- The next step is such a Cycle: the host has no other action pending (log 5). -/
abbrev Ready (s : State) : Prop := s.pending = [] ∧ Fetches s

/-- Memory is in its canonical form (log 7). -/
abbrev MemoryOk (s : State) : Prop := Memory.wf s.params s.mem = true

/-- The bounds of 10 R27: PC is at most 0x10FE and every occupied stack slot at most 0x1000, so no PC update wraps. -/
abbrev ControlOk (s : State) : Prop :=
  s.pc.toNat ≤ 0x10FE ∧ ∀ j : Fin 16, j.val < s.sp.val → s.stack[j].toNat ≤ 0x1000

/-- The status fields agree with each other: while halted, the record names a cause and PC is FAULT_PC, and a Cycle
has begun (60 R222); while not halted, the record is clear (60 R226); a completed load has set LOADED (20 R57). -/
abbrev StatusOk (s : State) : Prop :=
  (s.halted = true → s.faultCause ≠ .none ∧ s.faultPc = s.pc ∧ s.loaded = true) ∧
  (s.halted = false → s.faultCause = .none ∧ s.faultPc = 0 ∧ s.faultOpcode = 0 ∧ s.faultAddr = 0) ∧
  (s.loadStatus = .ok → s.loaded = true)

/-- The state an executor runs on: LOADED set, OPCODE the fetched word, PC the fetch address + 2 (40 R100). -/
abbrev Fetched (s : State) (op : Word) : State := { s with loaded := true, opcode := op, pc := s.pc + 2 }

/-- A timer one Cycle later: one less, not below 0 (40 R108). -/
abbrev ticked (b : Byte) : Byte := if b = 0 then 0 else b - 1

/-- The state at the end of a Cycle whose executor answered `t` from a Cycle begun in `s`: after a fault the OPCODE
latch is what it was and no timer ticks (60 R222), else both timers tick (40 R100). -/
abbrev EndOfCycle (s t : State) : State :=
  if t.halted then { t with opcode := s.opcode } else { t with dt := ticked t.dt, st := ticked t.st }

/-- The masks and matches of the 34 instruction rows of spec/opcode_table.json, in the table's order. -/
def instructionRows : List (Word × Word) :=
  [(0xF00F#16, 0x0000#16), (0xF00F#16, 0x000E#16), (0xF000#16, 0x1000#16), (0xF000#16, 0x2000#16),
   (0xF000#16, 0x3000#16), (0xF000#16, 0x4000#16), (0xF000#16, 0x5000#16), (0xF000#16, 0x6000#16),
   (0xF000#16, 0x7000#16)] ++
  [(0xF00F#16, 0x8000#16), (0xF00F#16, 0x8001#16), (0xF00F#16, 0x8002#16), (0xF00F#16, 0x8003#16),
   (0xF00F#16, 0x8004#16), (0xF00F#16, 0x8005#16), (0xF00F#16, 0x8006#16), (0xF00F#16, 0x8007#16),
   (0xF00F#16, 0x800E#16)] ++
  [(0xF000#16, 0x9000#16), (0xF000#16, 0xA000#16), (0xF000#16, 0xB000#16), (0xF000#16, 0xC000#16),
   (0xF000#16, 0xD000#16), (0xF00F#16, 0xE00E#16), (0xF00F#16, 0xE001#16)] ++
  [(0xF0FF#16, 0xF007#16), (0xF0FF#16, 0xF00A#16), (0xF0FF#16, 0xF015#16), (0xF0FF#16, 0xF018#16),
   (0xF0FF#16, 0xF01E#16), (0xF0FF#16, 0xF029#16), (0xF0FF#16, 0xF033#16), (0xF0FF#16, 0xF055#16),
   (0xF0FF#16, 0xF065#16)]

/-- No instruction row matches the word: its dispatch slot holds the no-op executor (30 R75, 40 R110). -/
abbrev NoRowMatches (op : Word) : Prop := ∀ row ∈ instructionRows, op &&& row.1 ≠ row.2

/-- Sprite pixel (r, c) is set: bit 7 - c of the sprite byte at I + r (44 R191). -/
abbrev spritePixel (s : State) (r c : Nat) : Prop := (readByte s (s.i.toNat + r)).getLsbD (7 - c) = true

/-- p(r, c) of 44 R191 for the origin registers x and y: only the origin wraps. -/
abbrev spriteCell (s : State) (x y : Reg) (r c : Nat) : Nat :=
  (s.v[y].toNat % 32 + r) * 64 + (s.v[x].toNat % 64 + c)

/-- The fault an executor raises in a state, by the table of 60 R223 in the order of 60 R225, with its FAULT_ADDR;
none where it raises none. -/
def faultOf (i : Instr) (s : State) : Option (FaultCause × Nat) :=
  match i with
  | .ret => if s.sp.val = 0 then some (.stackUnderflow, 0) else none
  | .call _ => if s.sp.val = 16 then some (.stackOverflow, 16) else none
  | .ldB _ => if 0x0FFF < s.i.toNat + 2 then some (.memWriteOor, max s.i.toNat 0x1000) else none
  | .stRegs x =>
    if 0 < storeCount s x ∧ 0x0FFF < s.i.toNat + storeCount s x - 1 then some (.memWriteOor, max s.i.toNat 0x1000)
    else none
  | .ldRegs x => if 0x0FFF < s.i.toNat + x.val then some (.memReadOor, max s.i.toNat 0x1000) else none
  | .drw x y n =>
    if 0 < n.val ∧ 0x0FFF < s.i.toNat + n.val - 1 then some (.memReadOor, max s.i.toNat 0x1000)
    else ((spriteCells s (s.v[x].toNat % 64) (s.v[y].toNat % 32) n.val).find? fun p => decide (2047 < p)).map
      fun p => (.fbOor, p)
  | .skp x => if 15 < s.v[x].toNat then some (.keyOor, s.v[x].toNat) else none
  | .sknp x => if 15 < s.v[x].toNat then some (.keyOor, s.v[x].toNat) else none
  | _ => none

/-- A 12-bit address plus V0, as a PC value (41 R121 to R123). -/
abbrev target (nnn : BitVec 12) (offset : Nat) : Word := BitVec.ofNat 16 (nnn.toNat + offset)

/-- PC at the end of a Cycle that fetched the instruction at s.pc and did not fault (10 R25, 41 R124). -/
def pcAfter (i : Instr) (s : State) : Word :=
  let skip (holds : Prop) [Decidable holds] : Word := if holds then s.pc + 4 else s.pc + 2
  match i with
  | .jp nnn => target nnn 0
  | .call nnn => target nnn 0
  | .jpV0 nnn => target nnn s.v[(0 : Reg)].toNat
  | .ret => s.stack[Fin.ofNat 16 (s.sp.val - 1)]
  | .seImm x kk => skip (s.v[x] = kk)
  | .sneImm x kk => skip (s.v[x] ≠ kk)
  | .seReg x y => skip (s.v[x] = s.v[y])
  | .sneReg x y => skip (s.v[x] ≠ s.v[y])
  | .skp x => skip (s.key.getLsbD s.v[x].toNat = true)
  | .sknp x => skip (s.key.getLsbD s.v[x].toNat = false)
  | .ldVxK _ => if s.key = 0 then s.pc else s.pc + 2
  | _ => s.pc + 2

/-- I after an executor (10 R28): only Annn, Fx1E and Fx29 set it. -/
def indexAfter (i : Instr) (s : State) : Word :=
  match i with
  | .ldI nnn => target nnn 0
  | .addI x => BitVec.ofNat 16 (s.i.toNat + s.v[x].toNat)
  | .ldF x => BitVec.ofNat 16 (s.params.fontBase.val + 5 * s.v[x].toNat)
  | _ => s.i

/-- Whether an executor may write register r: Vx where 10 R20 lists the instruction, VF where 10 R21 lists it as a flag
writer, V0..Vx for Fx65. -/
def mayWriteV (i : Instr) (r : Reg) : Bool :=
  match i with
  | .ldImm x _ => r == x
  | .addImm x _ => r == x
  | .ldReg x _ => r == x
  | .or x _ => r == x
  | .and x _ => r == x
  | .xor x _ => r == x
  | .add x _ => r == x || r == 15
  | .sub x _ => r == x || r == 15
  | .shr x _ => r == x || r == 15
  | .subn x _ => r == x || r == 15
  | .shl x _ => r == x || r == 15
  | .rnd x _ => r == x
  | .ldVxDt x => r == x
  | .ldVxK x => r == x
  | .ldRegs x => decide (r ≤ x)
  | .drw _ _ _ => r == 15
  | _ => false

/-- The addresses an executor stores to (20 R51): three bytes from I for Fx33, the block of FX55_BOUND for Fx55. -/
abbrev storesTo (i : Instr) (s : State) (a : Nat) : Prop :=
  match i with
  | .ldB _ => blockAddr s 0 ≤ a ∧ a < blockAddr s 0 + 3
  | .stRegs x => blockAddr s 0 ≤ a ∧ a < blockAddr s 0 + storeCount s x
  | _ => False

end Sys2Proof
end

