-- ==== Sys2Proof/Certificates/Slice0/Obligations.lean ====
section
/-!
DEFINITION. The statements about the machine, for the provers. Each docstring names the rule of spec/ it formalises.
`exec` runs on the state after the fetch (40 R102); `hostAction .cycle` is a whole Cycle, `hostAction` of the other
commands what they do; `step` is the host's next action (log 5).
-/

open Sys2Proof Sys2Proof.Machine

/-! ### Encoding and decoding -/

/-- 30 R71: the fields are extracted by masks and shifts. -/
def Obligations.FieldsAreMaskedShiftsOfTheWord : Prop :=
  ∀ op : Word,
    (fieldP op).toNat = (op >>> 12).toNat ∧
    (fieldX op).val = ((op >>> 8) &&& 0xF#16).toNat ∧
    (fieldY op).val = ((op >>> 4) &&& 0xF#16).toNat ∧
    (fieldN op).val = (op &&& 0xF#16).toNat ∧
    (fieldLow op).toNat = (op &&& 0xF#16).toNat ∧
    (fieldKK op).toNat = (op &&& 0xFF#16).toNat ∧
    (fieldNNN op).toNat = (op &&& 0xFFF#16).toNat

/-- The decode vectors of 95_test_vectors.md (L2, Decode): words written out from 30 R74 to R76. -/
def Obligations.DecodeVectorsOfTheSpec : Prop :=
  decodeWord 0x0120#16 = .cls ∧ decodeWord 0x0FFE#16 = .ret ∧ decodeWord 0x00EF#16 = .nop 0x00EF#16 ∧
  decodeWord 0x2FFF#16 = .call 0xFFF#12 ∧ decodeWord 0x5121#16 = .seReg 1 2 ∧ decodeWord 0x912F#16 = .sneReg 1 2 ∧
  decodeWord 0x8008#16 = .nop 0x8008#16 ∧ decodeWord 0x8FFE#16 = .shl 15 15 ∧ decodeWord 0xE0AE#16 = .skp 0 ∧
  decodeWord 0xE001#16 = .sknp 0 ∧ decodeWord 0xF10B#16 = .nop 0xF10B#16 ∧ decodeWord 0xF165#16 = .ldRegs 1

/-- Decoding the bytes of a well-formed instruction gives it back, with every operand at every value (30 R71, R72, R74,
R75, R81). -/
def Obligations.DecodeOfEncodeIsTheInstruction : Prop :=
  ∀ i : Instr, i.wf = true → decode (encodeBytes i) = .ok (i, [])

/-- Every word decodes, and to a well-formed instruction (30 R74, R79). -/
def Obligations.EveryWordDecodesToAWellFormedInstruction : Prop :=
  ∀ op : Word, (decodeWord op).wf = true

/-- 30 R76, which the spec marks as its own inference from R74 and R75: bits 11:4 of a 0 word, 7:4 of an E word and 3:0
of a 5 or 9 word are ignored; no bit of an 8 or F word is. -/
def Obligations.IgnoredBitsSelectNothing : Prop :=
  (∀ op, fieldP op = 0x0#4 → fieldLow op = 0x0#4 → decodeWord op = .cls) ∧
  (∀ op, fieldP op = 0x0#4 → fieldLow op = 0xE#4 → decodeWord op = .ret) ∧
  (∀ op, fieldP op = 0x0#4 → fieldLow op ≠ 0x0#4 → fieldLow op ≠ 0xE#4 → decodeWord op = .nop op) ∧
  (∀ op, fieldP op = 0xE#4 → fieldLow op = 0xE#4 → decodeWord op = .skp (fieldX op)) ∧
  (∀ op, fieldP op = 0xE#4 → fieldLow op = 0x1#4 → decodeWord op = .sknp (fieldX op)) ∧
  (∀ op, fieldP op = 0x5#4 → decodeWord op = .seReg (fieldX op) (fieldY op)) ∧
  (∀ op, fieldP op = 0x9#4 → decodeWord op = .sneReg (fieldX op) (fieldY op)) ∧
  (∀ op op', fieldP op = 0x8#4 ∨ fieldP op = 0xF#4 → decodeWord op = decodeWord op' → op = op')

/-! ### The Cycle -/

/-- 40 R100, R101, R102: the Cycle's pseudocode: nothing while halted, FETCH_OOR above 0x0FFE, else the executor of the
big-endian word and the end of the Cycle. -/
def Obligations.CycleFollowsItsPseudocode : Prop :=
  ∀ s : State,
    (s.halted = true → hostAction .cycle s = .next s) ∧
    (s.halted = false → 0x0FFE < s.pc.toNat →
      hostAction .cycle s = .next { s with
        loaded := true, halted := true, faultCause := .fetchOor, faultPc := s.pc, faultOpcode := 0,
        faultAddr := BitVec.ofNat 17 (max s.pc.toNat 0x1000) }) ∧
    (Fetches s → ∀ op : Word,
      op.toNat = (readByte s s.pc.toNat).toNat * 256 + (readByte s (s.pc.toNat + 1)).toNat →
      ∃ t, exec (decodeWord op) (Fetched s op) = .next t ∧ hostAction .cycle s = .next (EndOfCycle s t))

/-- A step is the host's next action, and a Cycle when none is pending: the model's own order of the commands (log 5).
A write of KEY changes KEY alone, and `reset` leaves the model's own fields (log 10). -/
def Obligations.StepTakesTheNextHostAction : Prop :=
  ∀ s : State,
    (s.pending = [] → step s = hostAction .cycle s) ∧
    (∀ act rest, s.pending = act :: rest → step s = hostAction act { s with pending := rest }) ∧
    (∀ key, hostAction (.setKey key) s = .next { s with key := key }) ∧
    ∃ t, hostAction .reset s = .next t ∧ t.draws = s.draws ∧ t.pending = s.pending

/-- A step runs the decoded instruction: when the two bytes at PC decode to a well-formed instruction, the step is that
instruction's executor on the state after the fetch, and the end of the Cycle (40 R100, R102, R103). -/
def Obligations.StepRunsTheDecodedInstruction : Prop :=
  ∀ (s t : State) (i : Instr) (rest : List Byte), Ready s →
    decode [readByte s s.pc.toNat, readByte s (s.pc.toNat + 1)] = .ok (i, rest) → i.wf = true →
    exec i (Fetched s (fetchWord s)) = .next t → step s = .next (EndOfCycle s t)

/-- 40 R110: a word no row matches selects the no-op, which writes nothing; its Cycle only moves PC by 2 and ticks the
timers (besides latching OPCODE and LOADED). -/
def Obligations.NopWordsOnlyAdvance : Prop :=
  (∀ op, NoRowMatches op → decodeWord op = .nop op) ∧
  (∀ (w : Word) (s : State), exec (.nop w) s = .next s) ∧
  (∀ s : State, Fetches s → NoRowMatches (fetchWord s) →
    hostAction .cycle s = .next { s with
      loaded := true, opcode := fetchWord s, pc := s.pc + 2, dt := ticked s.dt, st := ticked s.st })

/-- Every step answers a next state: the core never stops by itself, no word is refused and a fault is a state
(30 R78, 40 R112, 60 R220). -/
def Obligations.EveryStepAnswersANextState : Prop :=
  ∀ s : State, ∃ t, step s = .next t

/-- The tick of 40 R108, which the spec marks as derived from R100: in every Cycle that does not fault each timer ends
one lower, not below 0, counted from the value Fx15 or Fx18 wrote in the same Cycle. -/
def Obligations.TimersTickInEveryCycleThatDoesNotFault : Prop :=
  ∀ s t : State, Fetches s → hostAction .cycle s = .next t → t.halted = false →
    (∀ x, decodeWord (fetchWord s) = .ldDtVx x → t.dt = ticked s.v[x]) ∧
    ((∀ x, decodeWord (fetchWord s) ≠ .ldDtVx x) → t.dt = ticked s.dt) ∧
    (∀ x, decodeWord (fetchWord s) = .ldStVx x → t.st = ticked s.v[x]) ∧
    ((∀ x, decodeWord (fetchWord s) ≠ .ldStVx x) → t.st = ticked s.st)

/-! ### Control flow -/

/-- 41 R120: RET pops a nonempty stack into PC, the slot kept; with SP = 0 it faults. -/
def Obligations.RetPopsOrUnderflows : Prop :=
  (∀ op : Word, op &&& 0xF00F#16 = 0x000E#16 → decodeWord op = .ret) ∧
  (∀ (s : State) (k : Fin 16), s.sp.val = k.val + 1 →
    ∃ t, exec .ret s = .next t ∧ t = { s with sp := t.sp, pc := s.stack[k] } ∧ t.sp.val = k.val) ∧
  (∀ s : State, s.sp.val = 0 → exec .ret s = .next (raiseFault s .stackUnderflow 0))

/-- 41 R121, R123: JP sets PC to nnn, JP V0 to nnn + V0, not reduced to 12 bits. -/
def Obligations.JumpsSetThePc : Prop :=
  (∀ op : Word, op &&& 0xF000#16 = 0x1000#16 → decodeWord op = .jp (fieldNNN op)) ∧
  (∀ op : Word, op &&& 0xF000#16 = 0xB000#16 → decodeWord op = .jpV0 (fieldNNN op)) ∧
  (∀ (s : State) (nnn : BitVec 12), ∃ t, exec (.jp nnn) s = .next t ∧ t = { s with pc := t.pc } ∧
    t.pc.toNat = nnn.toNat) ∧
  (∀ (s : State) (nnn : BitVec 12), ∃ t, exec (.jpV0 nnn) s = .next t ∧ t = { s with pc := t.pc } ∧
    t.pc.toNat = nnn.toNat + s.v[(0 : Reg)].toNat)

/-- 41 R122: CALL pushes PC (the fetch address + 2) and jumps; with SP = 16 it faults. -/
def Obligations.CallPushesOrOverflows : Prop :=
  (∀ op : Word, op &&& 0xF000#16 = 0x2000#16 → decodeWord op = .call (fieldNNN op)) ∧
  (∀ (s : State) (nnn : BitVec 12), s.sp.val < 16 →
    ∃ t, exec (.call nnn) s = .next t ∧ t = { s with stack := t.stack, sp := t.sp, pc := t.pc } ∧
      t.sp.val = s.sp.val + 1 ∧ t.pc.toNat = nnn.toNat ∧
      ∀ j : Fin 16, t.stack[j] = if j.val = s.sp.val then s.pc else s.stack[j]) ∧
  (∀ (s : State) (nnn : BitVec 12), s.sp.val = 16 → exec (.call nnn) s = .next (raiseFault s .stackOverflow 16))

/-- 41 R125 to R128: the four register and immediate skips. -/
def Obligations.ComparisonSkips : Prop :=
  (∀ op : Word, op &&& 0xF000#16 = 0x3000#16 → decodeWord op = .seImm (fieldX op) (fieldKK op)) ∧
  (∀ op : Word, op &&& 0xF000#16 = 0x4000#16 → decodeWord op = .sneImm (fieldX op) (fieldKK op)) ∧
  (∀ op : Word, op &&& 0xF000#16 = 0x5000#16 → decodeWord op = .seReg (fieldX op) (fieldY op)) ∧
  (∀ op : Word, op &&& 0xF000#16 = 0x9000#16 → decodeWord op = .sneReg (fieldX op) (fieldY op)) ∧
  ∀ (s : State) (x y : Reg) (kk : Byte),
    exec (.seImm x kk) s = .next { s with pc := if s.v[x] = kk then s.pc + 2 else s.pc } ∧
    exec (.sneImm x kk) s = .next { s with pc := if s.v[x] = kk then s.pc else s.pc + 2 } ∧
    exec (.seReg x y) s = .next { s with pc := if s.v[x] = s.v[y] then s.pc + 2 else s.pc } ∧
    exec (.sneReg x y) s = .next { s with pc := if s.v[x] = s.v[y] then s.pc else s.pc + 2 }

/-- 10 R25 and 41 R124: over a whole Cycle that does not fault PC ends at the fetch address + 2, but for a skip whose
predicate holds (+ 4), 1nnn, Bnnn and 2nnn (their target), 00EE (the popped slot), and Fx0A with no key (the fetch
address). -/
def Obligations.PcChangesOnlyInTheListedWays : Prop :=
  ∀ s t : State, Fetches s → hostAction .cycle s = .next t → t.halted = false →
    t.pc = pcAfter (decodeWord (fetchWord s)) s

/-! ### Load and arithmetic -/

/-- 42 R141, R142: load immediate; add immediate mod 256, with no flag. -/
def Obligations.LoadAndAddImmediate : Prop :=
  (∀ op : Word, op &&& 0xF000#16 = 0x6000#16 → decodeWord op = .ldImm (fieldX op) (fieldKK op)) ∧
  (∀ op : Word, op &&& 0xF000#16 = 0x7000#16 → decodeWord op = .addImm (fieldX op) (fieldKK op)) ∧
  ∀ (s : State) (x : Reg) (kk : Byte),
    exec (.ldImm x kk) s = .next { s with v := s.v.set x kk } ∧
    exec (.addImm x kk) s = .next { s with v := s.v.set x (BitVec.ofNat 8 ((s.v[x].toNat + kk.toNat) % 256)) }

/-- 42 R143 to R146: copy, OR, AND and XOR write Vx and leave every other register, VF among them. -/
def Obligations.CopyAndBitwise : Prop :=
  (∀ op : Word, op &&& 0xF00F#16 = 0x8000#16 → decodeWord op = .ldReg (fieldX op) (fieldY op)) ∧
  (∀ op : Word, op &&& 0xF00F#16 = 0x8001#16 → decodeWord op = .or (fieldX op) (fieldY op)) ∧
  (∀ op : Word, op &&& 0xF00F#16 = 0x8002#16 → decodeWord op = .and (fieldX op) (fieldY op)) ∧
  (∀ op : Word, op &&& 0xF00F#16 = 0x8003#16 → decodeWord op = .xor (fieldX op) (fieldY op)) ∧
  ∀ (s : State) (x y : Reg),
    exec (.ldReg x y) s = .next { s with v := s.v.set x s.v[y] } ∧
    exec (.or x y) s = .next { s with v := s.v.set x (s.v[x] ||| s.v[y]) } ∧
    exec (.and x y) s = .next { s with v := s.v.set x (s.v[x] &&& s.v[y]) } ∧
    exec (.xor x y) s = .next { s with v := s.v.set x (s.v[x] ^^^ s.v[y]) }

/-- 42 R147: VF is 1 iff the sum exceeds 255; then Vx is the sum mod 256, so that with x = F the result stays. -/
def Obligations.AddWithCarry : Prop :=
  (∀ op : Word, op &&& 0xF00F#16 = 0x8004#16 → decodeWord op = .add (fieldX op) (fieldY op)) ∧
  ∀ (s : State) (x y : Reg),
    exec (.add x y) s = .next { s with
      v := (s.v.set 15 (if 255 < s.v[x].toNat + s.v[y].toNat then 1 else 0)).set x
        (BitVec.ofNat 8 ((s.v[x].toNat + s.v[y].toNat) % 256)) }

/-- 42 R148, R150 (90 C1): VF is 1 iff minuend > subtrahend, strictly; then Vx is the difference mod 256. -/
def Obligations.SubtractBothWays : Prop :=
  (∀ op : Word, op &&& 0xF00F#16 = 0x8005#16 → decodeWord op = .sub (fieldX op) (fieldY op)) ∧
  (∀ op : Word, op &&& 0xF00F#16 = 0x8007#16 → decodeWord op = .subn (fieldX op) (fieldY op)) ∧
  ∀ (s : State) (x y : Reg),
    exec (.sub x y) s = .next { s with
      v := (s.v.set 15 (if s.v[y].toNat < s.v[x].toNat then 1 else 0)).set x
        (BitVec.ofNat 8 ((s.v[x].toNat + 256 - s.v[y].toNat) % 256)) } ∧
    exec (.subn x y) s = .next { s with
      v := (s.v.set 15 (if s.v[x].toNat < s.v[y].toNat then 1 else 0)).set x
        (BitVec.ofNat 8 ((s.v[y].toNat + 256 - s.v[x].toNat) % 256)) }

/-- 42 R149, R151: shifts by one bit of Vx, y ignored; VF is the bit shifted out. -/
def Obligations.ShiftsByOne : Prop :=
  (∀ op : Word, op &&& 0xF00F#16 = 0x8006#16 → decodeWord op = .shr (fieldX op) (fieldY op)) ∧
  (∀ op : Word, op &&& 0xF00F#16 = 0x800E#16 → decodeWord op = .shl (fieldX op) (fieldY op)) ∧
  ∀ (s : State) (x y : Reg),
    exec (.shr x y) s = .next { s with
      v := (s.v.set 15 (BitVec.ofNat 8 (s.v[x].toNat % 2))).set x (BitVec.ofNat 8 (s.v[x].toNat / 2)) } ∧
    exec (.shl x y) s = .next { s with
      v := (s.v.set 15 (BitVec.ofNat 8 (s.v[x].toNat / 128))).set x (BitVec.ofNat 8 (s.v[x].toNat * 2 % 256)) }

/-- 10 R22: with x = F the result is written last, and VF holds it: the five instructions that write both. -/
def Obligations.ResultOverwritesTheFlagInVf : Prop :=
  ∀ (s : State) (y : Reg),
    (∃ t, exec (.add 15 y) s = .next t ∧ t.v[(15 : Reg)].toNat = (s.v[(15 : Reg)].toNat + s.v[y].toNat) % 256) ∧
    (∃ t, exec (.sub 15 y) s = .next t ∧ t.v[(15 : Reg)].toNat = (s.v[(15 : Reg)].toNat + 256 - s.v[y].toNat) % 256) ∧
    (∃ t, exec (.subn 15 y) s = .next t ∧ t.v[(15 : Reg)].toNat = (s.v[y].toNat + 256 - s.v[(15 : Reg)].toNat) % 256) ∧
    (∃ t, exec (.shr 15 y) s = .next t ∧ t.v[(15 : Reg)].toNat = s.v[(15 : Reg)].toNat / 2) ∧
    (∃ t, exec (.shl 15 y) s = .next t ∧ t.v[(15 : Reg)].toNat = s.v[(15 : Reg)].toNat * 2 % 256)

/-- 42 R152: Vx is the random byte AND kk, whatever the byte is (a free value, log 4). -/
def Obligations.RandomByteAndMask : Prop :=
  (∀ op : Word, op &&& 0xF000#16 = 0xC000#16 → decodeWord op = .rnd (fieldX op) (fieldKK op)) ∧
  ∀ (s : State) (x : Reg) (kk : Byte),
    exec (.rnd x kk) s = .next { s with
      v := s.v.set x (Config.randomByte s.draws &&& kk), draws := s.draws + 1 }

/-! ### Index register and memory -/

/-- 43 R172 to R174: the three executors that set I. -/
def Obligations.IndexRegisterIsSet : Prop :=
  (∀ op : Word, op &&& 0xF000#16 = 0xA000#16 → decodeWord op = .ldI (fieldNNN op)) ∧
  (∀ op : Word, op &&& 0xF0FF#16 = 0xF01E#16 → decodeWord op = .addI (fieldX op)) ∧
  (∀ op : Word, op &&& 0xF0FF#16 = 0xF029#16 → decodeWord op = .ldF (fieldX op)) ∧
  ∀ (s : State) (x : Reg) (nnn : BitVec 12),
    (∃ t, exec (.ldI nnn) s = .next t ∧ t = { s with i := t.i } ∧ t.i.toNat = nnn.toNat) ∧
    (∃ t, exec (.addI x) s = .next t ∧ t = { s with i := t.i } ∧
      t.i.toNat = (s.i.toNat + s.v[x].toNat) % 65536) ∧
    (∃ t, exec (.ldF x) s = .next t ∧ t = { s with i := t.i } ∧
      t.i.toNat = s.params.fontBase.val + 5 * s.v[x].toNat)

/-- The default map of 20 R55 in State.reset (the defaults are the model's arguments at reset, log 2; the glyph bytes are
general knowledge, log 13): the 16 glyphs at 0x050, five bytes each, and zero at every other address up to 0x0FFF. From
0x1000 up no byte of memory exists (20 R52): that the raw read gives zero there is the model's choice alone (log 8). -/
def Obligations.DefaultFontStandsInResetMemory : Prop :=
  ((List.range 80).map fun k => (readByte State.reset (0x050 + k)).toNat) =
    [0xF0, 0x90, 0x90, 0x90, 0xF0] ++ [0x20, 0x60, 0x20, 0x20, 0x70] ++ [0xF0, 0x10, 0xF0, 0x80, 0xF0] ++
    [0xF0, 0x10, 0xF0, 0x10, 0xF0] ++ [0x90, 0x90, 0xF0, 0x10, 0x10] ++ [0xF0, 0x80, 0xF0, 0x10, 0xF0] ++
    [0xF0, 0x80, 0xF0, 0x90, 0xF0] ++ [0xF0, 0x10, 0x20, 0x40, 0x40] ++ [0xF0, 0x90, 0xF0, 0x90, 0xF0] ++
    [0xF0, 0x90, 0xF0, 0x10, 0xF0] ++ [0xF0, 0x90, 0xF0, 0x90, 0x90] ++ [0xE0, 0x90, 0xE0, 0x90, 0xE0] ++
    [0xF0, 0x80, 0x80, 0x80, 0xF0] ++ [0xE0, 0x90, 0x90, 0x90, 0xE0] ++ [0xF0, 0x80, 0xF0, 0x80, 0xF0] ++
    [0xF0, 0x80, 0xF0, 0x80, 0x80] ∧
  ∀ a, a < 0x050 ∨ 0x0A0 ≤ a → readByte State.reset a = 0

/-- 43 R175: the three decimal digits of Vx at I, I+1, I+2, no other byte changed; MEM_WRITE_OOR above 0x0FFD. -/
def Obligations.BcdStoreWritesThreeDigits : Prop :=
  (∀ op : Word, op &&& 0xF0FF#16 = 0xF033#16 → decodeWord op = .ldB (fieldX op)) ∧
  (∀ (s : State) (x : Reg), MemoryOk s → s.i.toNat + 2 ≤ 0x0FFF →
    ∃ t, exec (.ldB x) s = .next t ∧ t = { s with mem := t.mem } ∧
      (readByte t s.i.toNat).toNat = s.v[x].toNat / 100 ∧
      (readByte t (s.i.toNat + 1)).toNat = s.v[x].toNat / 10 % 10 ∧
      (readByte t (s.i.toNat + 2)).toNat = s.v[x].toNat % 10 ∧
      ∀ a, a < s.i.toNat ∨ s.i.toNat + 2 < a → readByte t a = readByte s a) ∧
  (∀ (s : State) (x : Reg), 0x0FFF < s.i.toNat + 2 →
    exec (.ldB x) s = .next (raiseFault s .memWriteOor (max s.i.toNat 0x1000)))

/-- 43 R176: V0..V(x-1) (EXCLUSIVE) or V0..Vx (INCLUSIVE) at I and up, no other byte changed; MEM_WRITE_OOR when the
block is not empty and ends past 0x0FFF. -/
def Obligations.BlockStoreWritesTheLowRegisters : Prop :=
  (∀ op : Word, op &&& 0xF0FF#16 = 0xF055#16 → decodeWord op = .stRegs (fieldX op)) ∧
  (∀ (s : State) (x : Reg) (c : Nat), c = (if s.params.fx55Bound = .exclusive then x.val else x.val + 1) →
    (MemoryOk s → c = 0 ∨ s.i.toNat + c - 1 ≤ 0x0FFF →
      ∃ t, exec (.stRegs x) s = .next t ∧ t = { s with mem := t.mem } ∧
        (∀ r : Reg, r.val < c → readByte t (s.i.toNat + r.val) = s.v[r]) ∧
        ∀ a, a < s.i.toNat ∨ s.i.toNat + c ≤ a → readByte t a = readByte s a) ∧
    (0 < c → 0x0FFF < s.i.toNat + c - 1 →
      exec (.stRegs x) s = .next (raiseFault s .memWriteOor (max s.i.toNat 0x1000))))

/-- 43 R177: V0..Vx are loaded from I and up, the registers above are as before; MEM_READ_OOR when I + x > 0x0FFF. -/
def Obligations.BlockLoadReadsVxInclusive : Prop :=
  (∀ op : Word, op &&& 0xF0FF#16 = 0xF065#16 → decodeWord op = .ldRegs (fieldX op)) ∧
  (∀ (s : State) (x : Reg), s.i.toNat + x.val ≤ 0x0FFF →
    ∃ t, exec (.ldRegs x) s = .next t ∧ t = { s with v := t.v } ∧
      ∀ r : Reg, t.v[r] = if r ≤ x then readByte s (s.i.toNat + r.val) else s.v[r]) ∧
  (∀ (s : State) (x : Reg), 0x0FFF < s.i.toNat + x.val →
    exec (.ldRegs x) s = .next (raiseFault s .memReadOor (max s.i.toNat 0x1000)))

/-- A fetch sees what a block store wrote (20 R62): in any later state with the same memory whose PC is an address of
the block, the fetched word is the two stored registers, high byte first. -/
def Obligations.FetchSeesStoredBytes : Prop :=
  ∀ (s t u : State) (x r r' : Reg), MemoryOk s → s.halted = false → exec (.stRegs x) s = .next t → t.halted = false →
    r'.val = r.val + 1 → r'.val < storeCount s x → u.mem = t.mem → u.params = t.params →
    u.pc.toNat = s.i.toNat + r.val → fetchWord u = s.v[r] ++ s.v[r']

/-! ### Display -/

/-- 44 R190: every cell off, nothing else changed. -/
def Obligations.ClearScreenTurnsEveryCellOff : Prop :=
  (∀ op : Word, op &&& 0xF00F#16 = 0x0000#16 → decodeWord op = .cls) ∧
  ∀ s : State, ∃ t, exec .cls s = .next t ∧ t = { s with fb := t.fb } ∧ ∀ p, t.fb.getLsbD p = false

/-- 44 R191, R192: the draw toggles exactly the cells of the set pixels and VF is the collision; MEM_READ_OOR comes
first, and the first set pixel in row-major order past cell 2047 faults with FB_OOR. -/
def Obligations.SpriteDrawTogglesAndReportsCollision : Prop :=
  (∀ op : Word, op &&& 0xF000#16 = 0xD000#16 → decodeWord op = .drw (fieldX op) (fieldY op) (fieldN op)) ∧
  (∀ (s : State) (x y : Reg) (n : Fin 16), n.val = 0 ∨ s.i.toNat + n.val - 1 ≤ 0x0FFF →
    ((∀ r < n.val, ∀ c < 8, spritePixel s r c → spriteCell s x y r c ≤ 2047) →
      ∃ t, exec (.drw x y n) s = .next t ∧
        (∃ flag : Byte, t = { s with fb := t.fb, v := s.v.set 15 flag } ∧
          ((∃ r < n.val, ∃ c < 8, spritePixel s r c ∧ s.fb.getLsbD (spriteCell s x y r c) = true) → flag = 1) ∧
          ((∀ r < n.val, ∀ c < 8, spritePixel s r c → s.fb.getLsbD (spriteCell s x y r c) = false) → flag = 0)) ∧
        ∀ p < 2048,
          ((∃ r < n.val, ∃ c < 8, spritePixel s r c ∧ p = spriteCell s x y r c) →
            t.fb.getLsbD p = !s.fb.getLsbD p) ∧
          ((∀ r < n.val, ∀ c < 8, spritePixel s r c → p ≠ spriteCell s x y r c) →
            t.fb.getLsbD p = s.fb.getLsbD p)) ∧
    (∀ r < n.val, ∀ c < 8, spritePixel s r c → 2047 < spriteCell s x y r c →
      (∀ r' < n.val, ∀ c' < 8, r' < r ∨ (r' = r ∧ c' < c) → spritePixel s r' c' → spriteCell s x y r' c' ≤ 2047) →
      exec (.drw x y n) s = .next (raiseFault s .fbOor (spriteCell s x y r c)))) ∧
  (∀ (s : State) (x y : Reg) (n : Fin 16), 0 < n.val → 0x0FFF < s.i.toNat + n.val - 1 →
    exec (.drw x y n) s = .next (raiseFault s .memReadOor (max s.i.toNat 0x1000)))

/-- What 44 R192 gives for a second draw of the same sprite at the same origin (44 R193, which the spec marks as derived
from it): FB is restored, and VF is 1 iff a cell of a set pixel was off before the first draw. So VF is 1 for a sprite
with a set pixel when the first draw met no cell that was on; R193 says so of every sprite with a set pixel (log 17). -/
def Obligations.DrawingTwiceRestoresTheFramebuffer : Prop :=
  ∀ (s t u : State) (x y : Reg) (n : Fin 16), s.halted = false →
    exec (.drw x y n) s = .next t → t.halted = false → t.v[x] = s.v[x] → t.v[y] = s.v[y] →
    exec (.drw x y n) t = .next u →
    u.halted = false ∧ u.fb = s.fb ∧
    ((∃ r < n.val, ∃ c < 8, spritePixel s r c ∧ s.fb.getLsbD (spriteCell s x y r c) = false) →
      u.v[(15 : Reg)] = 1) ∧
    ((∀ r < n.val, ∀ c < 8, spritePixel s r c → s.fb.getLsbD (spriteCell s x y r c) = true) →
      u.v[(15 : Reg)] = 0)

/-! ### Keypad and timers -/

/-- 45 R200, R201: SKP skips if KEY[Vx] is held, SKNP if it is not; V[x] > 15 faults with KEY_OOR. -/
def Obligations.KeySkips : Prop :=
  (∀ op : Word, op &&& 0xF00F#16 = 0xE00E#16 → decodeWord op = .skp (fieldX op)) ∧
  (∀ op : Word, op &&& 0xF00F#16 = 0xE001#16 → decodeWord op = .sknp (fieldX op)) ∧
  (∀ (s : State) (x : Reg), s.v[x].toNat ≤ 15 →
    exec (.skp x) s = .next { s with pc := if s.key.getLsbD s.v[x].toNat then s.pc + 2 else s.pc } ∧
    exec (.sknp x) s = .next { s with pc := if s.key.getLsbD s.v[x].toNat then s.pc else s.pc + 2 }) ∧
  (∀ (s : State) (x : Reg), 15 < s.v[x].toNat →
    exec (.skp x) s = .next (raiseFault s .keyOor s.v[x].toNat) ∧
    exec (.sknp x) s = .next (raiseFault s .keyOor s.v[x].toNat))

/-- 45 R202: the lowest held key goes to Vx; with none held PC goes back by 2, and over the whole Cycle only the timers
(and the latches OPCODE and LOADED) change. -/
def Obligations.WaitForKeyTakesTheLowestOrRepeats : Prop :=
  (∀ op : Word, op &&& 0xF0FF#16 = 0xF00A#16 → decodeWord op = .ldVxK (fieldX op)) ∧
  (∀ (s : State) (x : Reg) (k : Nat), k < 16 → s.key.getLsbD k = true → (∀ j < k, s.key.getLsbD j = false) →
    exec (.ldVxK x) s = .next { s with v := s.v.set x (BitVec.ofNat 8 k) }) ∧
  (∀ (s : State) (x : Reg), (∀ k < 16, s.key.getLsbD k = false) →
    exec (.ldVxK x) s = .next { s with pc := s.pc - 2 }) ∧
  (∀ (s : State) (x : Reg), Fetches s → decodeWord (fetchWord s) = .ldVxK x →
    (∀ k < 16, s.key.getLsbD k = false) →
    hostAction .cycle s = .next { s with loaded := true, opcode := fetchWord s, dt := ticked s.dt, st := ticked s.st })

/-- 45 R203 to R205: Fx07 reads DT before the Cycle's tick; Fx15 and Fx18 write DT and ST, which the same Cycle
ticks. -/
def Obligations.TimerInstructions : Prop :=
  (∀ op : Word, op &&& 0xF0FF#16 = 0xF007#16 → decodeWord op = .ldVxDt (fieldX op)) ∧
  (∀ op : Word, op &&& 0xF0FF#16 = 0xF015#16 → decodeWord op = .ldDtVx (fieldX op)) ∧
  (∀ op : Word, op &&& 0xF0FF#16 = 0xF018#16 → decodeWord op = .ldStVx (fieldX op)) ∧
  (∀ (s : State) (x : Reg),
    exec (.ldVxDt x) s = .next { s with v := s.v.set x s.dt } ∧
    exec (.ldDtVx x) s = .next { s with dt := s.v[x] } ∧
    exec (.ldStVx x) s = .next { s with st := s.v[x] }) ∧
  (∀ (s : State) (x : Reg), Fetches s →
    (decodeWord (fetchWord s) = .ldVxDt x → ∃ t, hostAction .cycle s = .next t ∧ t.v[x] = s.dt ∧
      t.dt = ticked s.dt) ∧
    (decodeWord (fetchWord s) = .ldDtVx x → ∃ t, hostAction .cycle s = .next t ∧ t.dt = ticked s.v[x] ∧
      t.st = ticked s.st) ∧
    (decodeWord (fetchWord s) = .ldStVx x → ∃ t, hostAction .cycle s = .next t ∧ t.st = ticked s.v[x] ∧
      t.dt = ticked s.dt))

/-! ### Faults -/

/-- 60 R222: a Cycle that faults leaves the state of its beginning, with HALTED and the fault record written and LOADED
set: the cause and address are those of the fetch above 0x0FFE, else those of the executor. PC still holds the faulting
instruction's address and no timer ticks. -/
def Obligations.FaultsArePrecise : Prop :=
  ∀ s t : State, s.halted = false → hostAction .cycle s = .next t → t.halted = true →
    ∃ (cause : FaultCause) (n : Nat),
      (if 0x0FFE < s.pc.toNat then cause = .fetchOor ∧ n = max s.pc.toNat 0x1000
        else faultOf (decodeWord (fetchWord s)) (Fetched s (fetchWord s)) = some (cause, n)) ∧
      t = { s with
        loaded := true, halted := true, faultCause := cause, faultPc := s.pc,
        faultOpcode := if 0x0FFE < s.pc.toNat then 0 else fetchWord s, faultAddr := BitVec.ofNat 17 n }

/-- 60 R223, R225: the codes of the causes; the fetch faults above 0x0FFE; an executor faults exactly where the table of
causes says, with the cause and the exact address it says (17 bits hold it), and completes everywhere else. -/
def Obligations.FaultsFollowTheTableOfCauses : Prop :=
  ([FaultCause.none, .fetchOor, .memReadOor, .memWriteOor, .stackOverflow, .stackUnderflow, .fbOor, .keyOor].map
    fun c => c.code.toNat) = [0, 1, 2, 3, 4, 5, 6, 7] ∧
  (∀ s : State, s.halted = false → 0x0FFE < s.pc.toNat →
    ∃ t, hostAction .cycle s = .next t ∧ t.halted = true ∧ t.faultCause = .fetchOor ∧
      t.faultAddr.toNat = max s.pc.toNat 0x1000) ∧
  ∀ (i : Instr) (s : State), s.halted = false →
    (∀ c n, faultOf i s = some (c, n) →
      exec i s = .next (raiseFault s c n) ∧ (raiseFault s c n).faultAddr.toNat = n) ∧
    (faultOf i s = none → ∃ t, exec i s = .next t ∧ t.halted = false)

/-- Once halted, only `reset` leaves HALTED (60 R226): any other action of the host changes at most KEY. -/
def Obligations.HaltedIsLeftOnlyByReset : Prop :=
  ∀ s t : State, StatusOk s → s.halted = true → step s = .next t →
    (s.pending.head? = some .reset ∧ t.halted = false ∧ t.faultCause = .none) ∨
      t = { s with key := t.key, pending := s.pending.tail }

/-! ### The host's commands -/

/-- 10 R41, R42 and 70 R250: what the command `reset` leaves, and that State.reset is such a state. KEY stays as it
was (10 R42), and so do the arguments of the model (10 R44). -/
def Obligations.ResetLeavesTheResetState : Prop :=
  let isReset (t : State) : Prop :=
    (∀ a < 4096, readByte t a =
      if t.params.fontBase.val ≤ a ∧ a < t.params.fontBase.val + 80
      then t.params.fontData.toList.getD (a - t.params.fontBase.val) 0 else 0) ∧
    (∀ r : Reg, t.v[r] = 0) ∧ t.pc = 0x200 ∧ t.i = 0 ∧ t.sp.val = 0 ∧ (∀ j : Fin 16, t.stack[j] = 0) ∧
    t.dt = 0 ∧ t.st = 0 ∧ (∀ p, t.fb.getLsbD p = false) ∧ t.opcode = 0 ∧ t.halted = false ∧ t.faultCause = .none ∧
    t.faultPc = 0 ∧ t.faultOpcode = 0 ∧ t.faultAddr = 0 ∧ t.loaded = false ∧ t.loadStatus = .none
  isReset State.reset ∧
  ∀ s : State, ∃ t, hostAction .reset s = .next t ∧ isReset t ∧
    t.key = s.key ∧ t.params = s.params

/-- 20 R57: a load of at most 3584 bytes before the first Cycle copies them to 0x200 and up, writes no register, and
sets LOADED and OK. -/
def Obligations.LoadCopiesTheRom : Prop :=
  ∀ (s : State) (bytes : List Byte), MemoryOk s → s.loaded = false → bytes.length ≤ 3584 →
    ∃ t, hostAction (.load bytes) s = .next t ∧ t = { s with mem := t.mem, loaded := true, loadStatus := .ok } ∧
      (∀ k (h : k < bytes.length), readByte t (0x200 + k) = bytes[k]) ∧
      ∀ a, a < 0x200 ∨ 0x200 + bytes.length ≤ a → readByte t a = readByte s a

/-- 20 R58: a longer ROM is refused with TOO_LARGE and writes no memory; a load while LOADED = 1 has no effect. -/
def Obligations.LoadIsRefused : Prop :=
  ∀ (s : State) (bytes : List Byte),
    (s.loaded = false → 3584 < bytes.length →
      hostAction (.load bytes) s = .next { s with loadStatus := .tooLarge }) ∧
    (s.loaded = true → hostAction (.load bytes) s = .next s)

/-- LOADED (10 R37) becomes 1 when a Cycle begins or a load completes, and only `reset` clears it. -/
def Obligations.LoadedIsSetOnceAndClearedByReset : Prop :=
  ∀ s t : State, step s = .next t →
    (s.loaded = true → s.pending.head? ≠ some .reset → t.loaded = true) ∧
    (s.halted = false → s.pending = [] ∨ s.pending.head? = some .cycle → t.loaded = true) ∧
    (s.loaded = false → t.loaded = true → s.pending = [] ∨ s.pending.head? = some .cycle ∨
      (∃ bytes, s.pending.head? = some (.load bytes) ∧ t.loadStatus = .ok))

/-- The core never writes KEY (10 R32): only the host's own action changes it; no step changes the arguments of the model
(00 R7, 10 R44). -/
def Obligations.OnlyTheHostWritesKey : Prop :=
  ∀ s t : State, step s = .next t →
    t.params = s.params ∧
    ((∀ k, s.pending.head? ≠ some (.setKey k)) → t.key = s.key) ∧
    (∀ k, s.pending.head? = some (.setKey k) → t = { s with key := k, pending := s.pending.tail })

/-- The outputs (60 R232, R233, R234): the codes of LOAD_STATUS, sound_active, and cell (c, r) at bit r * 64 + c. -/
def Obligations.OutputsShowTheState : Prop :=
  ([LoadStatus.none, .ok, .tooLarge].map fun l => l.code.toNat) = [0, 1, 2] ∧
  ∀ s : State, (soundActive s = true ↔ s.st.toNat ≠ 0) ∧
    ∀ c < 64, ∀ r < 32, fbOutput s c r = s.fb.getLsbD (r * 64 + c)

/-- The state in which a word is placed for the next step (log 6): the step is ready and fetches that word. -/
def Obligations.PlacedWordIsTheOneFetched : Prop :=
  ∀ (s : State) (w : Nat), MemoryOk s →
    Ready (s.withFetchWord 16 w) ∧ (fetchWord (s.withFetchWord 16 w)).toNat = w % 65536

/-! ### Frames over all instructions -/

/-- 10 R20, R21: a register keeps its value in every instruction but those listed as writing it. -/
def Obligations.OnlyListedInstructionsWriteV : Prop :=
  ∀ (i : Instr) (s t : State) (r : Reg), exec i s = .next t → mayWriteV i r = false → t.v[r] = s.v[r]

/-- 10 R28: I is set by Annn, Fx1E and Fx29 alone, mod 2^16, and by no access (43 R170). -/
def Obligations.OnlyThreeInstructionsSetI : Prop :=
  ∀ (i : Instr) (s t : State), exec i s = .next t → t.i = indexAfter i s

/-- 10 R29, R30: only 2nnn and 00EE touch STACK and SP, and 00EE leaves every slot as it was. -/
def Obligations.OnlyCallAndRetTouchTheStack : Prop :=
  ∀ (i : Instr) (s t : State), exec i s = .next t →
    ((∀ nnn, i ≠ .call nnn) → t.stack = s.stack) ∧
    ((∀ nnn, i ≠ .call nnn) → i ≠ .ret → t.sp = s.sp)

/-- 10 R33: only 00E0 and Dxyn write the framebuffer. -/
def Obligations.OnlyClsAndDrwWriteTheFramebuffer : Prop :=
  ∀ (i : Instr) (s t : State), exec i s = .next t → i ≠ .cls → (∀ x y n, i ≠ .drw x y n) → t.fb = s.fb

/-- 20 R51: of all instructions only Fx33 and Fx55 write memory, and only the bytes of their blocks. -/
def Obligations.OnlyTheStoresWriteMemory : Prop :=
  ∀ (i : Instr) (s t : State) (a : Nat), MemoryOk s → exec i s = .next t → ¬ storesTo i s a →
    readByte t a = readByte s a

/-- 10 R31, R36, R37: before the tick DT is written by Fx15 alone and ST by Fx18 alone; no executor writes KEY, OPCODE,
LOADED or LOAD_STATUS; the fault record changes only by a fault. No rule gives the clauses about the model's own fields:
none of the executors writes the arguments (log 2) or the host's pending actions (log 5), and Cxkk alone advances the draw
counter (log 4). -/
def Obligations.StatusIsNoInstructionsToWrite : Prop :=
  ∀ (i : Instr) (s t : State), exec i s = .next t →
    ((∀ x, i ≠ .ldDtVx x) → t.dt = s.dt) ∧ ((∀ x, i ≠ .ldStVx x) → t.st = s.st) ∧
    t.key = s.key ∧ t.opcode = s.opcode ∧ t.loaded = s.loaded ∧ t.loadStatus = s.loadStatus ∧
    t.params = s.params ∧ t.pending = s.pending ∧ ((∀ x kk, i ≠ .rnd x kk) → t.draws = s.draws) ∧
    (t.halted = false → t.faultCause = s.faultCause ∧ t.faultPc = s.faultPc ∧ t.faultOpcode = s.faultOpcode ∧
      t.faultAddr = s.faultAddr)

/-- 40 R104, 10 R31, R37: every executor but Ex9E, ExA1 and Fx0A ignores KEY, every executor but Cxkk ignores the random
source, and none reads ST, LOADED or LOAD_STATUS: a change of what is not read changes nothing else. -/
def Obligations.ExecutorsIgnoreWhatTheyDoNotRead : Prop :=
  ∀ (i : Instr) (s t : State), exec i s = .next t →
    ((∀ x, i ≠ .skp x) → (∀ x, i ≠ .sknp x) → (∀ x, i ≠ .ldVxK x) →
      ∀ k, exec i { s with key := k } = .next { t with key := k }) ∧
    ((∀ x kk, i ≠ .rnd x kk) → ∀ d, exec i { s with draws := d } = .next { t with draws := d }) ∧
    ((∀ x, i ≠ .ldStVx x) → ∀ b, exec i { s with st := b } = .next { t with st := b }) ∧
    (∀ b l, exec i { s with loaded := b, loadStatus := l } = .next { t with loaded := b, loadStatus := l })

/-! ### Invariants -/

/-- Every step keeps memory in its canonical form (log 7). -/
def Obligations.StepKeepsMemoryCanonical : Prop :=
  ∀ s t : State, MemoryOk s → step s = .next t → MemoryOk t

/-- The bounds the spec derives in 10 R27: PC stays at most 0x10FE and every occupied slot at most 0x1000, so no PC
update ever wraps. -/
def Obligations.StepKeepsPcAndStackBounds : Prop :=
  ∀ s t : State, ControlOk s → step s = .next t → ControlOk t

/-- Every step keeps the status fields in agreement (60 R222, R226, 20 R57). -/
def Obligations.StepKeepsStatusCoherent : Prop :=
  ∀ s t : State, StatusOk s → step s = .next t → StatusOk t

/-- The state after reset meets the three invariants. -/
def Obligations.ResetMeetsTheInvariants : Prop :=
  MemoryOk State.reset ∧ ControlOk State.reset ∧ StatusOk State.reset
end

