-- ==== Sys2Proof/Laws/State.lean ====
section
/-!
SUPPORT. What each named update does to each field of State: one lemma per field per update, true by rfl.
-/

namespace Sys2Proof.Machine

variable (s : State)

@[simp] theorem setV_mem (x : Reg) (b : Byte) : (setV s x b).mem = s.mem := rfl
@[simp] theorem setV_v (x : Reg) (b : Byte) : (setV s x b).v = s.v.set x b := rfl
@[simp] theorem setV_i (x : Reg) (b : Byte) : (setV s x b).i = s.i := rfl
@[simp] theorem setV_pc (x : Reg) (b : Byte) : (setV s x b).pc = s.pc := rfl
@[simp] theorem setV_sp (x : Reg) (b : Byte) : (setV s x b).sp = s.sp := rfl
@[simp] theorem setV_stack (x : Reg) (b : Byte) : (setV s x b).stack = s.stack := rfl
@[simp] theorem setV_dt (x : Reg) (b : Byte) : (setV s x b).dt = s.dt := rfl
@[simp] theorem setV_st (x : Reg) (b : Byte) : (setV s x b).st = s.st := rfl
@[simp] theorem setV_fb (x : Reg) (b : Byte) : (setV s x b).fb = s.fb := rfl
@[simp] theorem setV_key (x : Reg) (b : Byte) : (setV s x b).key = s.key := rfl
@[simp] theorem setV_opcode (x : Reg) (b : Byte) : (setV s x b).opcode = s.opcode := rfl
@[simp] theorem setV_halted (x : Reg) (b : Byte) : (setV s x b).halted = s.halted := rfl
@[simp] theorem setV_faultCause (x : Reg) (b : Byte) : (setV s x b).faultCause = s.faultCause := rfl
@[simp] theorem setV_faultPc (x : Reg) (b : Byte) : (setV s x b).faultPc = s.faultPc := rfl
@[simp] theorem setV_faultOpcode (x : Reg) (b : Byte) : (setV s x b).faultOpcode = s.faultOpcode := rfl
@[simp] theorem setV_faultAddr (x : Reg) (b : Byte) : (setV s x b).faultAddr = s.faultAddr := rfl
@[simp] theorem setV_loaded (x : Reg) (b : Byte) : (setV s x b).loaded = s.loaded := rfl
@[simp] theorem setV_loadStatus (x : Reg) (b : Byte) : (setV s x b).loadStatus = s.loadStatus := rfl
@[simp] theorem setV_params (x : Reg) (b : Byte) : (setV s x b).params = s.params := rfl
@[simp] theorem setV_draws (x : Reg) (b : Byte) : (setV s x b).draws = s.draws := rfl
@[simp] theorem setV_pending (x : Reg) (b : Byte) : (setV s x b).pending = s.pending := rfl

@[simp] theorem setI_mem (a : Word) : (setI s a).mem = s.mem := rfl
@[simp] theorem setI_v (a : Word) : (setI s a).v = s.v := rfl
@[simp] theorem setI_i (a : Word) : (setI s a).i = a := rfl
@[simp] theorem setI_pc (a : Word) : (setI s a).pc = s.pc := rfl
@[simp] theorem setI_sp (a : Word) : (setI s a).sp = s.sp := rfl
@[simp] theorem setI_stack (a : Word) : (setI s a).stack = s.stack := rfl
@[simp] theorem setI_dt (a : Word) : (setI s a).dt = s.dt := rfl
@[simp] theorem setI_st (a : Word) : (setI s a).st = s.st := rfl
@[simp] theorem setI_fb (a : Word) : (setI s a).fb = s.fb := rfl
@[simp] theorem setI_key (a : Word) : (setI s a).key = s.key := rfl
@[simp] theorem setI_opcode (a : Word) : (setI s a).opcode = s.opcode := rfl
@[simp] theorem setI_halted (a : Word) : (setI s a).halted = s.halted := rfl
@[simp] theorem setI_faultCause (a : Word) : (setI s a).faultCause = s.faultCause := rfl
@[simp] theorem setI_faultPc (a : Word) : (setI s a).faultPc = s.faultPc := rfl
@[simp] theorem setI_faultOpcode (a : Word) : (setI s a).faultOpcode = s.faultOpcode := rfl
@[simp] theorem setI_faultAddr (a : Word) : (setI s a).faultAddr = s.faultAddr := rfl
@[simp] theorem setI_loaded (a : Word) : (setI s a).loaded = s.loaded := rfl
@[simp] theorem setI_loadStatus (a : Word) : (setI s a).loadStatus = s.loadStatus := rfl
@[simp] theorem setI_params (a : Word) : (setI s a).params = s.params := rfl
@[simp] theorem setI_draws (a : Word) : (setI s a).draws = s.draws := rfl
@[simp] theorem setI_pending (a : Word) : (setI s a).pending = s.pending := rfl

@[simp] theorem setPc_mem (a : Word) : (setPc s a).mem = s.mem := rfl
@[simp] theorem setPc_v (a : Word) : (setPc s a).v = s.v := rfl
@[simp] theorem setPc_i (a : Word) : (setPc s a).i = s.i := rfl
@[simp] theorem setPc_pc (a : Word) : (setPc s a).pc = a := rfl
@[simp] theorem setPc_sp (a : Word) : (setPc s a).sp = s.sp := rfl
@[simp] theorem setPc_stack (a : Word) : (setPc s a).stack = s.stack := rfl
@[simp] theorem setPc_dt (a : Word) : (setPc s a).dt = s.dt := rfl
@[simp] theorem setPc_st (a : Word) : (setPc s a).st = s.st := rfl
@[simp] theorem setPc_fb (a : Word) : (setPc s a).fb = s.fb := rfl
@[simp] theorem setPc_key (a : Word) : (setPc s a).key = s.key := rfl
@[simp] theorem setPc_opcode (a : Word) : (setPc s a).opcode = s.opcode := rfl
@[simp] theorem setPc_halted (a : Word) : (setPc s a).halted = s.halted := rfl
@[simp] theorem setPc_faultCause (a : Word) : (setPc s a).faultCause = s.faultCause := rfl
@[simp] theorem setPc_faultPc (a : Word) : (setPc s a).faultPc = s.faultPc := rfl
@[simp] theorem setPc_faultOpcode (a : Word) : (setPc s a).faultOpcode = s.faultOpcode := rfl
@[simp] theorem setPc_faultAddr (a : Word) : (setPc s a).faultAddr = s.faultAddr := rfl
@[simp] theorem setPc_loaded (a : Word) : (setPc s a).loaded = s.loaded := rfl
@[simp] theorem setPc_loadStatus (a : Word) : (setPc s a).loadStatus = s.loadStatus := rfl
@[simp] theorem setPc_params (a : Word) : (setPc s a).params = s.params := rfl
@[simp] theorem setPc_draws (a : Word) : (setPc s a).draws = s.draws := rfl
@[simp] theorem setPc_pending (a : Word) : (setPc s a).pending = s.pending := rfl

@[simp] theorem setDt_mem (b : Byte) : (setDt s b).mem = s.mem := rfl
@[simp] theorem setDt_v (b : Byte) : (setDt s b).v = s.v := rfl
@[simp] theorem setDt_i (b : Byte) : (setDt s b).i = s.i := rfl
@[simp] theorem setDt_pc (b : Byte) : (setDt s b).pc = s.pc := rfl
@[simp] theorem setDt_sp (b : Byte) : (setDt s b).sp = s.sp := rfl
@[simp] theorem setDt_stack (b : Byte) : (setDt s b).stack = s.stack := rfl
@[simp] theorem setDt_dt (b : Byte) : (setDt s b).dt = b := rfl
@[simp] theorem setDt_st (b : Byte) : (setDt s b).st = s.st := rfl
@[simp] theorem setDt_fb (b : Byte) : (setDt s b).fb = s.fb := rfl
@[simp] theorem setDt_key (b : Byte) : (setDt s b).key = s.key := rfl
@[simp] theorem setDt_opcode (b : Byte) : (setDt s b).opcode = s.opcode := rfl
@[simp] theorem setDt_halted (b : Byte) : (setDt s b).halted = s.halted := rfl
@[simp] theorem setDt_faultCause (b : Byte) : (setDt s b).faultCause = s.faultCause := rfl
@[simp] theorem setDt_faultPc (b : Byte) : (setDt s b).faultPc = s.faultPc := rfl
@[simp] theorem setDt_faultOpcode (b : Byte) : (setDt s b).faultOpcode = s.faultOpcode := rfl
@[simp] theorem setDt_faultAddr (b : Byte) : (setDt s b).faultAddr = s.faultAddr := rfl
@[simp] theorem setDt_loaded (b : Byte) : (setDt s b).loaded = s.loaded := rfl
@[simp] theorem setDt_loadStatus (b : Byte) : (setDt s b).loadStatus = s.loadStatus := rfl
@[simp] theorem setDt_params (b : Byte) : (setDt s b).params = s.params := rfl
@[simp] theorem setDt_draws (b : Byte) : (setDt s b).draws = s.draws := rfl
@[simp] theorem setDt_pending (b : Byte) : (setDt s b).pending = s.pending := rfl

@[simp] theorem setSt_mem (b : Byte) : (setSt s b).mem = s.mem := rfl
@[simp] theorem setSt_v (b : Byte) : (setSt s b).v = s.v := rfl
@[simp] theorem setSt_i (b : Byte) : (setSt s b).i = s.i := rfl
@[simp] theorem setSt_pc (b : Byte) : (setSt s b).pc = s.pc := rfl
@[simp] theorem setSt_sp (b : Byte) : (setSt s b).sp = s.sp := rfl
@[simp] theorem setSt_stack (b : Byte) : (setSt s b).stack = s.stack := rfl
@[simp] theorem setSt_dt (b : Byte) : (setSt s b).dt = s.dt := rfl
@[simp] theorem setSt_st (b : Byte) : (setSt s b).st = b := rfl
@[simp] theorem setSt_fb (b : Byte) : (setSt s b).fb = s.fb := rfl
@[simp] theorem setSt_key (b : Byte) : (setSt s b).key = s.key := rfl
@[simp] theorem setSt_opcode (b : Byte) : (setSt s b).opcode = s.opcode := rfl
@[simp] theorem setSt_halted (b : Byte) : (setSt s b).halted = s.halted := rfl
@[simp] theorem setSt_faultCause (b : Byte) : (setSt s b).faultCause = s.faultCause := rfl
@[simp] theorem setSt_faultPc (b : Byte) : (setSt s b).faultPc = s.faultPc := rfl
@[simp] theorem setSt_faultOpcode (b : Byte) : (setSt s b).faultOpcode = s.faultOpcode := rfl
@[simp] theorem setSt_faultAddr (b : Byte) : (setSt s b).faultAddr = s.faultAddr := rfl
@[simp] theorem setSt_loaded (b : Byte) : (setSt s b).loaded = s.loaded := rfl
@[simp] theorem setSt_loadStatus (b : Byte) : (setSt s b).loadStatus = s.loadStatus := rfl
@[simp] theorem setSt_params (b : Byte) : (setSt s b).params = s.params := rfl
@[simp] theorem setSt_draws (b : Byte) : (setSt s b).draws = s.draws := rfl
@[simp] theorem setSt_pending (b : Byte) : (setSt s b).pending = s.pending := rfl

@[simp] theorem setFb_mem (f : BitVec 2048) : (setFb s f).mem = s.mem := rfl
@[simp] theorem setFb_v (f : BitVec 2048) : (setFb s f).v = s.v := rfl
@[simp] theorem setFb_i (f : BitVec 2048) : (setFb s f).i = s.i := rfl
@[simp] theorem setFb_pc (f : BitVec 2048) : (setFb s f).pc = s.pc := rfl
@[simp] theorem setFb_sp (f : BitVec 2048) : (setFb s f).sp = s.sp := rfl
@[simp] theorem setFb_stack (f : BitVec 2048) : (setFb s f).stack = s.stack := rfl
@[simp] theorem setFb_dt (f : BitVec 2048) : (setFb s f).dt = s.dt := rfl
@[simp] theorem setFb_st (f : BitVec 2048) : (setFb s f).st = s.st := rfl
@[simp] theorem setFb_fb (f : BitVec 2048) : (setFb s f).fb = f := rfl
@[simp] theorem setFb_key (f : BitVec 2048) : (setFb s f).key = s.key := rfl
@[simp] theorem setFb_opcode (f : BitVec 2048) : (setFb s f).opcode = s.opcode := rfl
@[simp] theorem setFb_halted (f : BitVec 2048) : (setFb s f).halted = s.halted := rfl
@[simp] theorem setFb_faultCause (f : BitVec 2048) : (setFb s f).faultCause = s.faultCause := rfl
@[simp] theorem setFb_faultPc (f : BitVec 2048) : (setFb s f).faultPc = s.faultPc := rfl
@[simp] theorem setFb_faultOpcode (f : BitVec 2048) : (setFb s f).faultOpcode = s.faultOpcode := rfl
@[simp] theorem setFb_faultAddr (f : BitVec 2048) : (setFb s f).faultAddr = s.faultAddr := rfl
@[simp] theorem setFb_loaded (f : BitVec 2048) : (setFb s f).loaded = s.loaded := rfl
@[simp] theorem setFb_loadStatus (f : BitVec 2048) : (setFb s f).loadStatus = s.loadStatus := rfl
@[simp] theorem setFb_params (f : BitVec 2048) : (setFb s f).params = s.params := rfl
@[simp] theorem setFb_draws (f : BitVec 2048) : (setFb s f).draws = s.draws := rfl
@[simp] theorem setFb_pending (f : BitVec 2048) : (setFb s f).pending = s.pending := rfl

@[simp] theorem pushPc_mem (h : s.sp.val < 16) : (pushPc s h).mem = s.mem := rfl
@[simp] theorem pushPc_v (h : s.sp.val < 16) : (pushPc s h).v = s.v := rfl
@[simp] theorem pushPc_i (h : s.sp.val < 16) : (pushPc s h).i = s.i := rfl
@[simp] theorem pushPc_pc (h : s.sp.val < 16) : (pushPc s h).pc = s.pc := rfl
@[simp] theorem pushPc_sp (h : s.sp.val < 16) : (pushPc s h).sp = ⟨s.sp.val + 1, by omega⟩ := rfl
@[simp] theorem pushPc_stack (h : s.sp.val < 16) : (pushPc s h).stack = s.stack.set s.sp.val s.pc := rfl
@[simp] theorem pushPc_dt (h : s.sp.val < 16) : (pushPc s h).dt = s.dt := rfl
@[simp] theorem pushPc_st (h : s.sp.val < 16) : (pushPc s h).st = s.st := rfl
@[simp] theorem pushPc_fb (h : s.sp.val < 16) : (pushPc s h).fb = s.fb := rfl
@[simp] theorem pushPc_key (h : s.sp.val < 16) : (pushPc s h).key = s.key := rfl
@[simp] theorem pushPc_opcode (h : s.sp.val < 16) : (pushPc s h).opcode = s.opcode := rfl
@[simp] theorem pushPc_halted (h : s.sp.val < 16) : (pushPc s h).halted = s.halted := rfl
@[simp] theorem pushPc_faultCause (h : s.sp.val < 16) : (pushPc s h).faultCause = s.faultCause := rfl
@[simp] theorem pushPc_faultPc (h : s.sp.val < 16) : (pushPc s h).faultPc = s.faultPc := rfl
@[simp] theorem pushPc_faultOpcode (h : s.sp.val < 16) : (pushPc s h).faultOpcode = s.faultOpcode := rfl
@[simp] theorem pushPc_faultAddr (h : s.sp.val < 16) : (pushPc s h).faultAddr = s.faultAddr := rfl
@[simp] theorem pushPc_loaded (h : s.sp.val < 16) : (pushPc s h).loaded = s.loaded := rfl
@[simp] theorem pushPc_loadStatus (h : s.sp.val < 16) : (pushPc s h).loadStatus = s.loadStatus := rfl
@[simp] theorem pushPc_params (h : s.sp.val < 16) : (pushPc s h).params = s.params := rfl
@[simp] theorem pushPc_draws (h : s.sp.val < 16) : (pushPc s h).draws = s.draws := rfl
@[simp] theorem pushPc_pending (h : s.sp.val < 16) : (pushPc s h).pending = s.pending := rfl

@[simp] theorem popPc_mem (h : 0 < s.sp.val) : (popPc s h).mem = s.mem := rfl
@[simp] theorem popPc_v (h : 0 < s.sp.val) : (popPc s h).v = s.v := rfl
@[simp] theorem popPc_i (h : 0 < s.sp.val) : (popPc s h).i = s.i := rfl
@[simp] theorem popPc_pc (h : 0 < s.sp.val) : (popPc s h).pc = s.stack[s.sp.val - 1]'(by omega) := rfl
@[simp] theorem popPc_sp (h : 0 < s.sp.val) : (popPc s h).sp = ⟨s.sp.val - 1, by omega⟩ := rfl
@[simp] theorem popPc_stack (h : 0 < s.sp.val) : (popPc s h).stack = s.stack := rfl
@[simp] theorem popPc_dt (h : 0 < s.sp.val) : (popPc s h).dt = s.dt := rfl
@[simp] theorem popPc_st (h : 0 < s.sp.val) : (popPc s h).st = s.st := rfl
@[simp] theorem popPc_fb (h : 0 < s.sp.val) : (popPc s h).fb = s.fb := rfl
@[simp] theorem popPc_key (h : 0 < s.sp.val) : (popPc s h).key = s.key := rfl
@[simp] theorem popPc_opcode (h : 0 < s.sp.val) : (popPc s h).opcode = s.opcode := rfl
@[simp] theorem popPc_halted (h : 0 < s.sp.val) : (popPc s h).halted = s.halted := rfl
@[simp] theorem popPc_faultCause (h : 0 < s.sp.val) : (popPc s h).faultCause = s.faultCause := rfl
@[simp] theorem popPc_faultPc (h : 0 < s.sp.val) : (popPc s h).faultPc = s.faultPc := rfl
@[simp] theorem popPc_faultOpcode (h : 0 < s.sp.val) : (popPc s h).faultOpcode = s.faultOpcode := rfl
@[simp] theorem popPc_faultAddr (h : 0 < s.sp.val) : (popPc s h).faultAddr = s.faultAddr := rfl
@[simp] theorem popPc_loaded (h : 0 < s.sp.val) : (popPc s h).loaded = s.loaded := rfl
@[simp] theorem popPc_loadStatus (h : 0 < s.sp.val) : (popPc s h).loadStatus = s.loadStatus := rfl
@[simp] theorem popPc_params (h : 0 < s.sp.val) : (popPc s h).params = s.params := rfl
@[simp] theorem popPc_draws (h : 0 < s.sp.val) : (popPc s h).draws = s.draws := rfl
@[simp] theorem popPc_pending (h : 0 < s.sp.val) : (popPc s h).pending = s.pending := rfl

@[simp] theorem writeByte_mem (a : Nat) (b : Byte) : (writeByte s a b).mem = Memory.write s.params s.mem a b := rfl
@[simp] theorem writeByte_v (a : Nat) (b : Byte) : (writeByte s a b).v = s.v := rfl
@[simp] theorem writeByte_i (a : Nat) (b : Byte) : (writeByte s a b).i = s.i := rfl
@[simp] theorem writeByte_pc (a : Nat) (b : Byte) : (writeByte s a b).pc = s.pc := rfl
@[simp] theorem writeByte_sp (a : Nat) (b : Byte) : (writeByte s a b).sp = s.sp := rfl
@[simp] theorem writeByte_stack (a : Nat) (b : Byte) : (writeByte s a b).stack = s.stack := rfl
@[simp] theorem writeByte_dt (a : Nat) (b : Byte) : (writeByte s a b).dt = s.dt := rfl
@[simp] theorem writeByte_st (a : Nat) (b : Byte) : (writeByte s a b).st = s.st := rfl
@[simp] theorem writeByte_fb (a : Nat) (b : Byte) : (writeByte s a b).fb = s.fb := rfl
@[simp] theorem writeByte_key (a : Nat) (b : Byte) : (writeByte s a b).key = s.key := rfl
@[simp] theorem writeByte_opcode (a : Nat) (b : Byte) : (writeByte s a b).opcode = s.opcode := rfl
@[simp] theorem writeByte_halted (a : Nat) (b : Byte) : (writeByte s a b).halted = s.halted := rfl
@[simp] theorem writeByte_faultCause (a : Nat) (b : Byte) : (writeByte s a b).faultCause = s.faultCause := rfl
@[simp] theorem writeByte_faultPc (a : Nat) (b : Byte) : (writeByte s a b).faultPc = s.faultPc := rfl
@[simp] theorem writeByte_faultOpcode (a : Nat) (b : Byte) : (writeByte s a b).faultOpcode = s.faultOpcode := rfl
@[simp] theorem writeByte_faultAddr (a : Nat) (b : Byte) : (writeByte s a b).faultAddr = s.faultAddr := rfl
@[simp] theorem writeByte_loaded (a : Nat) (b : Byte) : (writeByte s a b).loaded = s.loaded := rfl
@[simp] theorem writeByte_loadStatus (a : Nat) (b : Byte) : (writeByte s a b).loadStatus = s.loadStatus := rfl
@[simp] theorem writeByte_params (a : Nat) (b : Byte) : (writeByte s a b).params = s.params := rfl
@[simp] theorem writeByte_draws (a : Nat) (b : Byte) : (writeByte s a b).draws = s.draws := rfl
@[simp] theorem writeByte_pending (a : Nat) (b : Byte) : (writeByte s a b).pending = s.pending := rfl

@[simp] theorem takeFault_mem (a op : Word) (c : FaultCause) (n : Nat) : (takeFault s a op c n).mem = s.mem := rfl
@[simp] theorem takeFault_v (a op : Word) (c : FaultCause) (n : Nat) : (takeFault s a op c n).v = s.v := rfl
@[simp] theorem takeFault_i (a op : Word) (c : FaultCause) (n : Nat) : (takeFault s a op c n).i = s.i := rfl
@[simp] theorem takeFault_pc (a op : Word) (c : FaultCause) (n : Nat) : (takeFault s a op c n).pc = a := rfl
@[simp] theorem takeFault_sp (a op : Word) (c : FaultCause) (n : Nat) : (takeFault s a op c n).sp = s.sp := rfl
@[simp] theorem takeFault_stack (a op : Word) (c : FaultCause) (n : Nat) : (takeFault s a op c n).stack = s.stack := rfl
@[simp] theorem takeFault_dt (a op : Word) (c : FaultCause) (n : Nat) : (takeFault s a op c n).dt = s.dt := rfl
@[simp] theorem takeFault_st (a op : Word) (c : FaultCause) (n : Nat) : (takeFault s a op c n).st = s.st := rfl
@[simp] theorem takeFault_fb (a op : Word) (c : FaultCause) (n : Nat) : (takeFault s a op c n).fb = s.fb := rfl
@[simp] theorem takeFault_key (a op : Word) (c : FaultCause) (n : Nat) : (takeFault s a op c n).key = s.key := rfl
@[simp] theorem takeFault_opcode (a op : Word) (c : FaultCause) (n : Nat) : (takeFault s a op c n).opcode = s.opcode := rfl
@[simp] theorem takeFault_halted (a op : Word) (c : FaultCause) (n : Nat) : (takeFault s a op c n).halted = true := rfl
@[simp] theorem takeFault_faultCause (a op : Word) (c : FaultCause) (n : Nat) : (takeFault s a op c n).faultCause = c := rfl
@[simp] theorem takeFault_faultPc (a op : Word) (c : FaultCause) (n : Nat) : (takeFault s a op c n).faultPc = a := rfl
@[simp] theorem takeFault_faultOpcode (a op : Word) (c : FaultCause) (n : Nat) : (takeFault s a op c n).faultOpcode = op := rfl
@[simp] theorem takeFault_faultAddr (a op : Word) (c : FaultCause) (n : Nat) : (takeFault s a op c n).faultAddr = BitVec.ofNat 17 n := rfl
@[simp] theorem takeFault_loaded (a op : Word) (c : FaultCause) (n : Nat) : (takeFault s a op c n).loaded = s.loaded := rfl
@[simp] theorem takeFault_loadStatus (a op : Word) (c : FaultCause) (n : Nat) : (takeFault s a op c n).loadStatus = s.loadStatus := rfl
@[simp] theorem takeFault_params (a op : Word) (c : FaultCause) (n : Nat) : (takeFault s a op c n).params = s.params := rfl
@[simp] theorem takeFault_draws (a op : Word) (c : FaultCause) (n : Nat) : (takeFault s a op c n).draws = s.draws := rfl
@[simp] theorem takeFault_pending (a op : Word) (c : FaultCause) (n : Nat) : (takeFault s a op c n).pending = s.pending := rfl

@[simp] theorem raiseFault_mem (c : FaultCause) (n : Nat) : (raiseFault s c n).mem = s.mem := rfl
@[simp] theorem raiseFault_v (c : FaultCause) (n : Nat) : (raiseFault s c n).v = s.v := rfl
@[simp] theorem raiseFault_i (c : FaultCause) (n : Nat) : (raiseFault s c n).i = s.i := rfl
@[simp] theorem raiseFault_pc (c : FaultCause) (n : Nat) : (raiseFault s c n).pc = s.pc - 2 := rfl
@[simp] theorem raiseFault_sp (c : FaultCause) (n : Nat) : (raiseFault s c n).sp = s.sp := rfl
@[simp] theorem raiseFault_stack (c : FaultCause) (n : Nat) : (raiseFault s c n).stack = s.stack := rfl
@[simp] theorem raiseFault_dt (c : FaultCause) (n : Nat) : (raiseFault s c n).dt = s.dt := rfl
@[simp] theorem raiseFault_st (c : FaultCause) (n : Nat) : (raiseFault s c n).st = s.st := rfl
@[simp] theorem raiseFault_fb (c : FaultCause) (n : Nat) : (raiseFault s c n).fb = s.fb := rfl
@[simp] theorem raiseFault_key (c : FaultCause) (n : Nat) : (raiseFault s c n).key = s.key := rfl
@[simp] theorem raiseFault_opcode (c : FaultCause) (n : Nat) : (raiseFault s c n).opcode = s.opcode := rfl
@[simp] theorem raiseFault_halted (c : FaultCause) (n : Nat) : (raiseFault s c n).halted = true := rfl
@[simp] theorem raiseFault_faultCause (c : FaultCause) (n : Nat) : (raiseFault s c n).faultCause = c := rfl
@[simp] theorem raiseFault_faultPc (c : FaultCause) (n : Nat) : (raiseFault s c n).faultPc = s.pc - 2 := rfl
@[simp] theorem raiseFault_faultOpcode (c : FaultCause) (n : Nat) : (raiseFault s c n).faultOpcode = s.opcode := rfl
@[simp] theorem raiseFault_faultAddr (c : FaultCause) (n : Nat) : (raiseFault s c n).faultAddr = BitVec.ofNat 17 n := rfl
@[simp] theorem raiseFault_loaded (c : FaultCause) (n : Nat) : (raiseFault s c n).loaded = s.loaded := rfl
@[simp] theorem raiseFault_loadStatus (c : FaultCause) (n : Nat) : (raiseFault s c n).loadStatus = s.loadStatus := rfl
@[simp] theorem raiseFault_params (c : FaultCause) (n : Nat) : (raiseFault s c n).params = s.params := rfl
@[simp] theorem raiseFault_draws (c : FaultCause) (n : Nat) : (raiseFault s c n).draws = s.draws := rfl
@[simp] theorem raiseFault_pending (c : FaultCause) (n : Nat) : (raiseFault s c n).pending = s.pending := rfl

@[simp] theorem afterDraw_mem : (afterDraw s).mem = s.mem := rfl
@[simp] theorem afterDraw_v : (afterDraw s).v = s.v := rfl
@[simp] theorem afterDraw_i : (afterDraw s).i = s.i := rfl
@[simp] theorem afterDraw_pc : (afterDraw s).pc = s.pc := rfl
@[simp] theorem afterDraw_sp : (afterDraw s).sp = s.sp := rfl
@[simp] theorem afterDraw_stack : (afterDraw s).stack = s.stack := rfl
@[simp] theorem afterDraw_dt : (afterDraw s).dt = s.dt := rfl
@[simp] theorem afterDraw_st : (afterDraw s).st = s.st := rfl
@[simp] theorem afterDraw_fb : (afterDraw s).fb = s.fb := rfl
@[simp] theorem afterDraw_key : (afterDraw s).key = s.key := rfl
@[simp] theorem afterDraw_opcode : (afterDraw s).opcode = s.opcode := rfl
@[simp] theorem afterDraw_halted : (afterDraw s).halted = s.halted := rfl
@[simp] theorem afterDraw_faultCause : (afterDraw s).faultCause = s.faultCause := rfl
@[simp] theorem afterDraw_faultPc : (afterDraw s).faultPc = s.faultPc := rfl
@[simp] theorem afterDraw_faultOpcode : (afterDraw s).faultOpcode = s.faultOpcode := rfl
@[simp] theorem afterDraw_faultAddr : (afterDraw s).faultAddr = s.faultAddr := rfl
@[simp] theorem afterDraw_loaded : (afterDraw s).loaded = s.loaded := rfl
@[simp] theorem afterDraw_loadStatus : (afterDraw s).loadStatus = s.loadStatus := rfl
@[simp] theorem afterDraw_params : (afterDraw s).params = s.params := rfl
@[simp] theorem afterDraw_draws : (afterDraw s).draws = s.draws + 1 := rfl
@[simp] theorem afterDraw_pending : (afterDraw s).pending = s.pending := rfl

@[simp] theorem writeKey_mem (k : BitVec 16) : (writeKey s k).mem = s.mem := rfl
@[simp] theorem writeKey_v (k : BitVec 16) : (writeKey s k).v = s.v := rfl
@[simp] theorem writeKey_i (k : BitVec 16) : (writeKey s k).i = s.i := rfl
@[simp] theorem writeKey_pc (k : BitVec 16) : (writeKey s k).pc = s.pc := rfl
@[simp] theorem writeKey_sp (k : BitVec 16) : (writeKey s k).sp = s.sp := rfl
@[simp] theorem writeKey_stack (k : BitVec 16) : (writeKey s k).stack = s.stack := rfl
@[simp] theorem writeKey_dt (k : BitVec 16) : (writeKey s k).dt = s.dt := rfl
@[simp] theorem writeKey_st (k : BitVec 16) : (writeKey s k).st = s.st := rfl
@[simp] theorem writeKey_fb (k : BitVec 16) : (writeKey s k).fb = s.fb := rfl
@[simp] theorem writeKey_key (k : BitVec 16) : (writeKey s k).key = k := rfl
@[simp] theorem writeKey_opcode (k : BitVec 16) : (writeKey s k).opcode = s.opcode := rfl
@[simp] theorem writeKey_halted (k : BitVec 16) : (writeKey s k).halted = s.halted := rfl
@[simp] theorem writeKey_faultCause (k : BitVec 16) : (writeKey s k).faultCause = s.faultCause := rfl
@[simp] theorem writeKey_faultPc (k : BitVec 16) : (writeKey s k).faultPc = s.faultPc := rfl
@[simp] theorem writeKey_faultOpcode (k : BitVec 16) : (writeKey s k).faultOpcode = s.faultOpcode := rfl
@[simp] theorem writeKey_faultAddr (k : BitVec 16) : (writeKey s k).faultAddr = s.faultAddr := rfl
@[simp] theorem writeKey_loaded (k : BitVec 16) : (writeKey s k).loaded = s.loaded := rfl
@[simp] theorem writeKey_loadStatus (k : BitVec 16) : (writeKey s k).loadStatus = s.loadStatus := rfl
@[simp] theorem writeKey_params (k : BitVec 16) : (writeKey s k).params = s.params := rfl
@[simp] theorem writeKey_draws (k : BitVec 16) : (writeKey s k).draws = s.draws := rfl
@[simp] theorem writeKey_pending (k : BitVec 16) : (writeKey s k).pending = s.pending := rfl

@[simp] theorem beginCycle_mem : (beginCycle s).mem = s.mem := rfl
@[simp] theorem beginCycle_v : (beginCycle s).v = s.v := rfl
@[simp] theorem beginCycle_i : (beginCycle s).i = s.i := rfl
@[simp] theorem beginCycle_pc : (beginCycle s).pc = s.pc := rfl
@[simp] theorem beginCycle_sp : (beginCycle s).sp = s.sp := rfl
@[simp] theorem beginCycle_stack : (beginCycle s).stack = s.stack := rfl
@[simp] theorem beginCycle_dt : (beginCycle s).dt = s.dt := rfl
@[simp] theorem beginCycle_st : (beginCycle s).st = s.st := rfl
@[simp] theorem beginCycle_fb : (beginCycle s).fb = s.fb := rfl
@[simp] theorem beginCycle_key : (beginCycle s).key = s.key := rfl
@[simp] theorem beginCycle_opcode : (beginCycle s).opcode = s.opcode := rfl
@[simp] theorem beginCycle_halted : (beginCycle s).halted = s.halted := rfl
@[simp] theorem beginCycle_faultCause : (beginCycle s).faultCause = s.faultCause := rfl
@[simp] theorem beginCycle_faultPc : (beginCycle s).faultPc = s.faultPc := rfl
@[simp] theorem beginCycle_faultOpcode : (beginCycle s).faultOpcode = s.faultOpcode := rfl
@[simp] theorem beginCycle_faultAddr : (beginCycle s).faultAddr = s.faultAddr := rfl
@[simp] theorem beginCycle_loaded : (beginCycle s).loaded = true := rfl
@[simp] theorem beginCycle_loadStatus : (beginCycle s).loadStatus = s.loadStatus := rfl
@[simp] theorem beginCycle_params : (beginCycle s).params = s.params := rfl
@[simp] theorem beginCycle_draws : (beginCycle s).draws = s.draws := rfl
@[simp] theorem beginCycle_pending : (beginCycle s).pending = s.pending := rfl

@[simp] theorem afterFetch_mem : (afterFetch s).mem = s.mem := rfl
@[simp] theorem afterFetch_v : (afterFetch s).v = s.v := rfl
@[simp] theorem afterFetch_i : (afterFetch s).i = s.i := rfl
@[simp] theorem afterFetch_pc : (afterFetch s).pc = s.pc + 2 := rfl
@[simp] theorem afterFetch_sp : (afterFetch s).sp = s.sp := rfl
@[simp] theorem afterFetch_stack : (afterFetch s).stack = s.stack := rfl
@[simp] theorem afterFetch_dt : (afterFetch s).dt = s.dt := rfl
@[simp] theorem afterFetch_st : (afterFetch s).st = s.st := rfl
@[simp] theorem afterFetch_fb : (afterFetch s).fb = s.fb := rfl
@[simp] theorem afterFetch_key : (afterFetch s).key = s.key := rfl
@[simp] theorem afterFetch_opcode : (afterFetch s).opcode = fetchWord s := rfl
@[simp] theorem afterFetch_halted : (afterFetch s).halted = s.halted := rfl
@[simp] theorem afterFetch_faultCause : (afterFetch s).faultCause = s.faultCause := rfl
@[simp] theorem afterFetch_faultPc : (afterFetch s).faultPc = s.faultPc := rfl
@[simp] theorem afterFetch_faultOpcode : (afterFetch s).faultOpcode = s.faultOpcode := rfl
@[simp] theorem afterFetch_faultAddr : (afterFetch s).faultAddr = s.faultAddr := rfl
@[simp] theorem afterFetch_loaded : (afterFetch s).loaded = s.loaded := rfl
@[simp] theorem afterFetch_loadStatus : (afterFetch s).loadStatus = s.loadStatus := rfl
@[simp] theorem afterFetch_params : (afterFetch s).params = s.params := rfl
@[simp] theorem afterFetch_draws : (afterFetch s).draws = s.draws := rfl
@[simp] theorem afterFetch_pending : (afterFetch s).pending = s.pending := rfl

@[simp] theorem tick_mem : (tick s).mem = s.mem := rfl
@[simp] theorem tick_v : (tick s).v = s.v := rfl
@[simp] theorem tick_i : (tick s).i = s.i := rfl
@[simp] theorem tick_pc : (tick s).pc = s.pc := rfl
@[simp] theorem tick_sp : (tick s).sp = s.sp := rfl
@[simp] theorem tick_stack : (tick s).stack = s.stack := rfl
@[simp] theorem tick_dt : (tick s).dt = countDown s.dt := rfl
@[simp] theorem tick_st : (tick s).st = countDown s.st := rfl
@[simp] theorem tick_fb : (tick s).fb = s.fb := rfl
@[simp] theorem tick_key : (tick s).key = s.key := rfl
@[simp] theorem tick_opcode : (tick s).opcode = s.opcode := rfl
@[simp] theorem tick_halted : (tick s).halted = s.halted := rfl
@[simp] theorem tick_faultCause : (tick s).faultCause = s.faultCause := rfl
@[simp] theorem tick_faultPc : (tick s).faultPc = s.faultPc := rfl
@[simp] theorem tick_faultOpcode : (tick s).faultOpcode = s.faultOpcode := rfl
@[simp] theorem tick_faultAddr : (tick s).faultAddr = s.faultAddr := rfl
@[simp] theorem tick_loaded : (tick s).loaded = s.loaded := rfl
@[simp] theorem tick_loadStatus : (tick s).loadStatus = s.loadStatus := rfl
@[simp] theorem tick_params : (tick s).params = s.params := rfl
@[simp] theorem tick_draws : (tick s).draws = s.draws := rfl
@[simp] theorem tick_pending : (tick s).pending = s.pending := rfl

end Sys2Proof.Machine
end

