-- ==== Sys2Proof/Laws/Memory.lean ====
section
/-!
SUPPORT. Memory: every operation keeps the canonical form, and a read after writes gives the byte last written
(20 R60).
-/

namespace Sys2Proof.Machine

variable {p : Params} {lo a b : Nat} {v : Byte} {m : List Host.Cell}

/-- The parts of the canonical form of a nonempty list. -/
theorem Memory.wfFrom_cons {w : Byte} :
    Memory.wfFrom p lo ((b, w) :: m) = true ↔
      (lo ≤ b ∧ b < memSize ∧ w ≠ Memory.unlisted p b) ∧ Memory.wfFrom p (b + 1) m = true := by
  simp [Memory.wfFrom, and_assoc]

theorem Memory.wfFrom_mono {lo' : Nat} (h : Memory.wfFrom p lo m = true) (hlo : lo' ≤ lo) :
    Memory.wfFrom p lo' m = true := by
  cases m with
  | nil => rfl
  | cons c m =>
    obtain ⟨b, w⟩ := c
    rw [Memory.wfFrom_cons] at h ⊢
    exact ⟨⟨hlo.trans h.1.1, h.1.2⟩, h.2⟩

/-- An address below the first listed one is not listed. -/
theorem Memory.lookup_below (h : Memory.wfFrom p lo m = true) (ha : a < lo) : Memory.lookup m a = none := by
  induction m generalizing lo with
  | nil => rfl
  | cons c m ih =>
    obtain ⟨b, w⟩ := c
    rw [Memory.wfFrom_cons] at h
    have hab : a ≠ b := by omega
    simpa [Memory.lookup, hab] using ih h.2 (by omega)

theorem Memory.wfFrom_cell (h : Memory.wfFrom p (a + 1) m = true) (hlo : lo ≤ a) (ha : a < memSize) :
    Memory.wfFrom p lo (Memory.cons p a v m) = true := by
  unfold Memory.cons
  split
  · exact Memory.wfFrom_mono h (by omega)
  · next hv => exact Memory.wfFrom_cons.2 ⟨⟨hlo, ha, hv⟩, h⟩

/-- Putting a byte at an address keeps the canonical form. -/
theorem Memory.wfFrom_insert (h : Memory.wfFrom p lo m = true) (hlo : lo ≤ a) (ha : a < memSize) :
    Memory.wfFrom p lo (Memory.insert p m a v) = true := by
  induction m generalizing lo with
  | nil => exact Memory.wfFrom_cell rfl hlo ha
  | cons c m ih =>
    obtain ⟨b, w⟩ := c
    rw [Memory.wfFrom_cons] at h
    unfold Memory.insert
    split
    · next hab => exact Memory.wfFrom_cell (Memory.wfFrom_cons.2 ⟨⟨hab, h.1.2⟩, h.2⟩) hlo ha
    · split
      · next _ hab => subst hab; exact Memory.wfFrom_cell h.2 hlo ha
      · exact Memory.wfFrom_cons.2 ⟨h.1, ih h.2 (by omega)⟩

/-- A write keeps the canonical form. -/
theorem Memory.wf_write (h : Memory.wf p m = true) : Memory.wf p (Memory.write p m a v) = true := by
  unfold Memory.write
  split
  · next ha => exact Memory.wfFrom_insert h (Nat.zero_le a) ha
  · exact h

theorem Memory.read_cell (h : Memory.wfFrom p (a + 1) m = true) :
    Memory.read p (Memory.cons p a v m) b = if b = a then v else Memory.read p m b := by
  unfold Memory.cons Memory.read
  split
  · next hv =>
    split
    · next hb => subst hb; simp [Memory.lookup_below h (Nat.lt_succ_self _), hv]
    · rfl
  · simp only [Memory.lookup]
    split <;> simp_all

theorem Memory.read_insert (h : Memory.wfFrom p lo m = true) :
    Memory.read p (Memory.insert p m a v) b = if b = a then v else Memory.read p m b := by
  induction m generalizing lo with
  | nil => exact Memory.read_cell rfl
  | cons c m ih =>
    obtain ⟨d, w⟩ := c
    rw [Memory.wfFrom_cons] at h
    unfold Memory.insert
    split
    · next had => exact Memory.read_cell (Memory.wfFrom_cons.2 ⟨⟨had, h.1.2⟩, h.2⟩)
    · split
      · next _ had =>
        subst had
        rw [Memory.read_cell h.2]
        split
        · rfl
        · next hb => simp [Memory.read, Memory.lookup, hb]
      · next h1 h2 =>
        have hi := ih h.2
        unfold Memory.read at hi ⊢
        simp only [Memory.lookup]
        by_cases hbd : b = d
        · have hba : b ≠ a := by omega
          simp [hbd]
          omega
        · simpa [hbd] using hi

/-- Read after write: the byte written there, every other byte as before. -/
theorem Memory.read_write (h : Memory.wf p m = true) (ha : a < memSize) :
    Memory.read p (Memory.write p m a v) b = if b = a then v else Memory.read p m b := by
  rw [Memory.write, if_pos ha]
  exact Memory.read_insert h

/-! ### The same on states -/

variable {s : State}

/-- A byte of memory depends on the memory and the font arguments alone. -/
theorem readByte_congr {t : State} (hm : s.mem = t.mem) (hp : s.params = t.params) (a : Nat) :
    readByte s a = readByte t a := by
  rw [readByte, readByte, hm, hp]

theorem writeByte_memoryOk (h : MemoryOk s) : MemoryOk (writeByte s a v) := Memory.wf_write h

theorem readByte_writeByte (h : MemoryOk s) (ha : a < memSize) :
    readByte (writeByte s a v) b = if b = a then v else readByte s b := Memory.read_write h ha

/-- Everything but memory is as before a write of consecutive bytes. -/
theorem writeBytes_eq (s : State) (a : Nat) (vs : List Byte) :
    writeBytes s a vs = { s with mem := (writeBytes s a vs).mem } := by
  induction vs generalizing s a with
  | nil => rfl
  | cons v vs ih => rw [writeBytes, ih]; rfl

theorem writeBytes_memoryOk (vs : List Byte) (h : MemoryOk s) : MemoryOk (writeBytes s a vs) := by
  induction vs generalizing s a with
  | nil => exact h
  | cons v vs ih => exact ih (writeByte_memoryOk h)

/-- A write of consecutive bytes leaves every byte before and after them as it was. -/
theorem readByte_writeBytes_outside (vs : List Byte) (h : MemoryOk s) (hend : a + vs.length ≤ memSize)
    (hb : b < a ∨ a + vs.length ≤ b) : readByte (writeBytes s a vs) b = readByte s b := by
  induction vs generalizing s a with
  | nil => rfl
  | cons v vs ih =>
    simp only [List.length_cons] at hend hb
    rw [writeBytes, ih (writeByte_memoryOk h) (by omega) (by omega), readByte_writeByte h (by omega), if_neg (by omega)]

/-- After a write of consecutive bytes, each of them reads as written. -/
theorem readByte_writeBytes_inside (vs : List Byte) (h : MemoryOk s) (hend : a + vs.length ≤ memSize) (k : Nat)
    (hk : k < vs.length) : readByte (writeBytes s a vs) (a + k) = vs[k] := by
  induction vs generalizing s a k with
  | nil => simp at hk
  | cons v vs ih =>
    simp only [List.length_cons] at hend hk
    cases k with
    | zero =>
      rw [writeBytes, readByte_writeBytes_outside vs (writeByte_memoryOk h) (by omega) (by omega),
        readByte_writeByte h (by omega)]
      simp
    | succ k =>
      have := ih (s := writeByte s a v) (a := a + 1) (writeByte_memoryOk h) (by omega) k (by omega)
      simpa [writeBytes, Nat.add_assoc, Nat.add_comm 1 k] using this

end Sys2Proof.Machine
end

