-- ==== Sys2Proof/Laws/Ops.lean ====
section
/-!
SUPPORT. One lemma for each shared operation that says everything it can do; a proof cites it instead of unfolding
the operation.
-/

namespace Sys2Proof.Machine

variable {s t : State}

/-! ### Operand forms -/

/-- An access through I either faults, when a byte of it is out of range, or does what the executor says. -/
theorem withBlock_next {c : FaultCause} {n : Nat} {done : State} (h : withBlock s c n done = .next t) :
    ((0 < n ∧ memSize < s.i.toNat + n) ∧ t = raiseFault s c (firstOor s)) ∨
      (¬(0 < n ∧ memSize < s.i.toNat + n) ∧ t = done) := by
  unfold withBlock blockOor at h
  split at h
  · next hb => exact .inl ⟨of_decide_eq_true hb, by injection h with h; exact h.symm⟩
  · next hb => exact .inr ⟨by simpa using hb, by injection h with h; exact h.symm⟩

theorem withBlock_inside {c : FaultCause} {n : Nat} {done : State} (h : n = 0 ∨ s.i.toNat + n ≤ memSize) :
    withBlock s c n done = .next done := by
  unfold withBlock blockOor
  rw [if_neg]
  simp only [decide_eq_true_eq]
  omega

theorem withBlock_outside {c : FaultCause} {n : Nat} {done : State} (hn : 0 < n) (h : memSize < s.i.toNat + n) :
    withBlock s c n done = .next (raiseFault s c (firstOor s)) := by
  unfold withBlock blockOor
  rw [if_pos]
  simpa using ⟨hn, h⟩

/-- A skip moves PC by 2 or leaves it, and changes nothing else. -/
theorem skipIf_eq (s : State) (b : Bool) : skipIf s b = { s with pc := if b then s.pc + 2 else s.pc } := by
  cases b <;> rfl

/-- A skip on a key either faults, when V[x] names no key, or is a skip decided by that key. -/
theorem skipOnKey_next {x : Reg} {w : Bool} (h : skipOnKey s x w = .next t) :
    (15 < (getV s x).toNat ∧ t = raiseFault s .keyOor (getV s x).toNat) ∨
      ((getV s x).toNat ≤ 15 ∧ t = skipIf s (keyHeld s (getV s x).toNat == w)) := by
  unfold skipOnKey at h
  split at h
  · next hb => exact .inl ⟨hb, by injection h with h; exact h.symm⟩
  · next hb => exact .inr ⟨by omega, by injection h with h; exact h.symm⟩

/-- The key a wait takes is held, and no lower one is. -/
theorem lowestKey_some {k : Nat} :
    lowestKey s = some k ↔ k < 16 ∧ keyHeld s k = true ∧ ∀ j < k, keyHeld s j = false := by
  unfold lowestKey
  rw [List.find?_range_eq_some]
  simp
  tauto

theorem lowestKey_none : lowestKey s = none ↔ ∀ k < 16, keyHeld s k = false := by
  simp [lowestKey]

/-! ### Registers -/

@[simp] theorem getV_setV (x r : Reg) (b : Byte) : getV (setV s x b) r = if x = r then b else getV s r := by
  simp only [getV, setV, Fin.getElem_fin]
  rw [Vector.getElem_set]
  simp [Fin.ext_iff]

/-- A flagged result: the destination holds the result, VF the flag unless it is the destination, every other register
is as before (10 R22). -/
theorem getV_setFlagged (x r : Reg) (b : Byte) (f : Bool) :
    getV (setFlagged s x b f) r = if x = r then b else if vf = r then flagByte f else getV s r := by
  simp [setFlagged]

/-- A flagged result changes only V. -/
theorem setFlagged_eq (x : Reg) (b : Byte) (f : Bool) :
    setFlagged s x b f = { s with v := (s.v.set vf (flagByte f)).set x b } := rfl

/-- A block load changes only V. -/
theorem loadRegs_eq (s : State) (n : Nat) : loadRegs s n = { s with v := (loadRegs s n).v } := by
  induction n with
  | zero => rfl
  | succ n ih => rw [loadRegs, ih]; rfl

/-- A block load of n registers: V0..V(n-1) hold the bytes from I on, the others are as before. -/
theorem getV_loadRegs (s : State) (n : Nat) (hn : n ≤ 16) (r : Reg) :
    getV (loadRegs s n) r = if r.val < n then readByte s (blockAddr s r.val) else getV s r := by
  induction n with
  | zero => rfl
  | succ n ih =>
    rw [loadRegs, getV_setV, ih (by omega)]
    have : (Fin.ofNat 16 n = r) ↔ n = r.val := by
      rw [Fin.ext_iff]; simp [Nat.mod_eq_of_lt (by omega : n < 16)]
    by_cases hr : n = r.val
    · simp [hr]
    · rw [if_neg (by rwa [this])]
      have : r.val < n ↔ r.val < n + 1 := by omega
      simp [this]

/-! ### The framebuffer -/

theorem fbCell_toggleCell (fb : BitVec 2048) {p q : Nat} (hq : q < 2048) :
    fbCell (toggleCell fb p) q = (fbCell fb q ^^ decide (q = p)) := by
  unfold fbCell toggleCell
  rw [BitVec.getLsbD_xor, BitVec.getLsbD_shiftLeft, BitVec.getLsbD_one]
  by_cases h : q = p
  · subst h; simp [hq]
  · rcases Nat.lt_or_gt_of_ne h with hlt | hgt
    · simp [hlt, h]
    · have : q - p ≠ 0 := by omega
      simp [h, this]

/-- Drawing distinct cells toggles exactly those cells. -/
theorem fbCell_drawCells (fb : BitVec 2048) (hit : Bool) (ps : List Nat) (hps : ps.Nodup) {q : Nat} (hq : q < 2048) :
    fbCell (drawCells fb hit ps).1 q = (fbCell fb q ^^ decide (q ∈ ps)) := by
  induction ps generalizing fb hit with
  | nil => simp [drawCells]
  | cons p ps ih =>
    rw [List.nodup_cons] at hps
    rw [drawCells, ih _ _ hps.2, fbCell_toggleCell fb hq]
    by_cases h : q = p
    · subst h; simp [hps.1]
    · simp [h]

/-- Drawing distinct cells of the grid hits iff one of them was on before the draw. -/
theorem drawCells_hit (fb : BitVec 2048) (hit : Bool) (ps : List Nat) (hps : ps.Nodup) (hlt : ∀ p ∈ ps, p < 2048) :
    (drawCells fb hit ps).2 = (hit || ps.any (fbCell fb)) := by
  induction ps generalizing fb hit with
  | nil => simp [drawCells]
  | cons p ps ih =>
    rw [List.nodup_cons] at hps
    rw [drawCells, ih _ _ hps.2 fun q hq => hlt q (List.mem_cons_of_mem _ hq), List.any_cons, Bool.or_assoc]
    congr 2
    rw [Bool.eq_iff_iff, List.any_eq_true, List.any_eq_true]
    refine exists_congr fun q => and_congr_right fun hq => ?_
    have hne : q ≠ p := fun h => hps.1 (h ▸ hq)
    rw [fbCell_toggleCell fb (hlt q (List.mem_cons_of_mem _ hq))]
    simp [hne]

theorem mem_rowCells {b : Byte} {ox oy r p : Nat} :
    p ∈ rowCells b ox oy r ↔ ∃ c < 8, b.getLsbD (7 - c) = true ∧ p = pixelCell ox oy r c := by
  simp only [rowCells, List.mem_map, List.mem_filter, List.mem_range]
  constructor
  · rintro ⟨c, ⟨hc, hb⟩, rfl⟩; exact ⟨c, hc, hb, rfl⟩
  · rintro ⟨c, hc, hb, rfl⟩; exact ⟨c, ⟨hc, hb⟩, rfl⟩

/-- The cells of a sprite are those of its set bits. -/
theorem mem_spriteCells {ox oy n p : Nat} :
    p ∈ spriteCells s ox oy n ↔
      ∃ r < n, ∃ c < 8, (readByte s (blockAddr s r)).getLsbD (7 - c) = true ∧ p = pixelCell ox oy r c := by
  simp [spriteCells, mem_rowCells]

/-- The cells of a sprite come in rising order, so no cell comes twice (44 R191). -/
theorem spriteCells_rising (s : State) (ox oy n : Nat) : (spriteCells s ox oy n).Pairwise (· < ·) := by
  have hrow (b : Byte) (r : Nat) : (rowCells b ox oy r).Pairwise (· < ·) := by
    unfold rowCells
    rw [List.pairwise_map]
    exact (List.pairwise_lt_range.filter _).imp fun h => by unfold pixelCell; omega
  unfold spriteCells
  rw [List.pairwise_flatMap]
  refine ⟨fun r _ => hrow _ r, List.pairwise_lt_range.imp fun {r r'} hr p hp q hq => ?_⟩
  obtain ⟨c, hc, -, rfl⟩ := mem_rowCells.1 hp
  obtain ⟨d, hd, -, rfl⟩ := mem_rowCells.1 hq
  unfold pixelCell fbCols
  omega

theorem spriteCells_nodup (s : State) (ox oy n : Nat) : (spriteCells s ox oy n).Nodup :=
  (spriteCells_rising s ox oy n).imp Nat.ne_of_lt

/-- The draw of a sprite whose bytes lie in memory: FB_OOR for the first cell past the grid, or the toggled cells and
the collision flag. -/
theorem drawSprite_cases (s : State) (cells : List Nat) :
    (∃ p, cells.find? (fun p => decide (fbCells ≤ p)) = some p ∧ drawSprite s cells = raiseFault s .fbOor p) ∨
      ((∀ p ∈ cells, p < fbCells) ∧
        drawSprite s cells =
          setV (setFb s (drawCells s.fb false cells).1) vf (flagByte (drawCells s.fb false cells).2)) := by
  unfold drawSprite
  cases h : cells.find? (fun p => decide (fbCells ≤ p)) with
  | some p => exact .inl ⟨p, rfl, rfl⟩
  | none => exact .inr ⟨fun p hp => by simpa using List.find?_eq_none.1 h p hp, rfl⟩

/-! ### The Cycle -/

/-- The end of a Cycle: the tick, or after a fault the old OPCODE. -/
theorem finishCycle_cases (s t : State) :
    (t.halted = true ∧ finishCycle s t = { t with opcode := s.opcode }) ∨
      (t.halted = false ∧ finishCycle s t = tick t) := by
  unfold finishCycle
  cases h : t.halted <;> simp

/-- What a Cycle can do: nothing while halted, FETCH_OOR, or the executor of the fetched word and the Cycle's end. -/
theorem cycle_cases (h : cycle s = .next t) :
    (s.halted = true ∧ t = s) ∨
      (s.halted = false ∧ lastFetch < s.pc.toNat ∧ t = fetchFault (beginCycle s)) ∨
      (s.halted = false ∧ s.pc.toNat ≤ lastFetch ∧
        ∃ u, exec (decodeWord (fetchWord (beginCycle s))) (afterFetch (beginCycle s)) = .next u ∧
          t = finishCycle (beginCycle s) u) := by
  unfold cycle at h
  split at h
  · next hh => exact .inl ⟨hh, by injection h with h; exact h.symm⟩
  · next hh =>
    have hh : s.halted = false := by simpa using hh
    split at h
    · next hp => exact .inr (.inl ⟨hh, hp, by injection h with h; exact h.symm⟩)
    · next hp =>
      unfold executeAndFinish at h
      split at h
      · next u hu => exact .inr (.inr ⟨hh, by omega, u, hu, by injection h with h; exact h.symm⟩)
      · cases h
      · cases h

/-- What a step can do: a Cycle, a reset, a load or a write of KEY. -/
theorem step_cases (h : step s = .next t) :
    (s.pending = [] ∧ cycle s = .next t) ∨
      ∃ act rest, s.pending = act :: rest ∧
        ((act = .reset ∧ t = hostReset { s with pending := rest }) ∨
          (∃ bytes, act = .load bytes ∧ t = loadRom { s with pending := rest } bytes) ∨
          (∃ key, act = .setKey key ∧ t = writeKey { s with pending := rest } key) ∨
          (act = .cycle ∧ cycle { s with pending := rest } = .next t)) := by
  unfold step at h
  split at h
  · next hp => exact .inl ⟨hp, h⟩
  · next act rest hp =>
    refine .inr ⟨act, rest, hp, ?_⟩
    cases act with
    | reset => exact .inl ⟨rfl, by injection h with h; exact h.symm⟩
    | load bytes => exact .inr (.inl ⟨bytes, rfl, by injection h with h; exact h.symm⟩)
    | setKey key => exact .inr (.inr (.inl ⟨key, rfl, by injection h with h; exact h.symm⟩))
    | cycle => exact .inr (.inr (.inr ⟨rfl, h⟩))

/-- A load of a ROM: nothing, a refusal, or the bytes written at the program origin (20 R57, R58). -/
theorem loadRom_cases (s : State) (bytes : List Byte) :
    (s.loaded = true ∧ loadRom s bytes = s) ∨
      (s.loaded = false ∧ maxRom < bytes.length ∧ loadRom s bytes = { s with loadStatus := .tooLarge }) ∨
      (s.loaded = false ∧ bytes.length ≤ maxRom ∧
        loadRom s bytes =
          { s with mem := (writeBytes s progOrigin bytes).mem, loaded := true, loadStatus := .ok }) := by
  unfold loadRom
  split
  · next h => exact .inl ⟨h, rfl⟩
  · next h =>
    have h : s.loaded = false := by simpa using h
    split
    · next hb => exact .inr (.inl ⟨h, hb, rfl⟩)
    · next hb => exact .inr (.inr ⟨h, by omega, by rw [writeBytes_eq]⟩)

end Sys2Proof.Machine
end

