-- ==== Sys2Proof/Laws/Encoding.lean ====
section
/-!
SUPPORT. The fields of a word, as numbers (30 R71); the fields of a word put together from fields (30 R72); and what
the three masks of spec/opcode_table.json keep of a word.
-/

namespace Sys2Proof

theorem toNat_append_add {m n : Nat} (a : BitVec m) (b : BitVec n) :
    (a ++ b).toNat = a.toNat * 2 ^ n + b.toNat := by
  rw [BitVec.toNat_append, ← Nat.shiftLeft_add_eq_or_of_lt b.isLt, Nat.shiftLeft_eq]

/-! ### The fields of a word as numbers -/

theorem fieldP_toNat (op : Word) : (fieldP op).toNat = op.toNat / 4096 % 16 := by
  simp [fieldP, BitVec.extractLsb'_toNat, Nat.shiftRight_eq_div_pow]

theorem fieldLow_toNat (op : Word) : (fieldLow op).toNat = op.toNat % 16 := by
  simp [fieldLow, BitVec.extractLsb'_toNat]

theorem fieldKK_toNat (op : Word) : (fieldKK op).toNat = op.toNat % 256 := by
  simp [fieldKK, BitVec.extractLsb'_toNat]

theorem fieldNNN_toNat (op : Word) : (fieldNNN op).toNat = op.toNat % 4096 := by
  simp [fieldNNN, BitVec.extractLsb'_toNat]

theorem fieldX_val (op : Word) : (fieldX op).val = op.toNat / 256 % 16 := by
  simp [fieldX, Nat.shiftRight_eq_div_pow]

theorem fieldY_val (op : Word) : (fieldY op).val = op.toNat / 16 % 16 := by
  simp [fieldY, Nat.shiftRight_eq_div_pow]

theorem fieldN_val (op : Word) : (fieldN op).val = op.toNat % 16 := by
  simp [fieldN]

/-! ### The words of the formats as numbers, and their fields -/

theorem wordPNNN_toNat (p : BitVec 4) (nnn : BitVec 12) : (wordPNNN p nnn).toNat = p.toNat * 4096 + nnn.toNat :=
  toNat_append_add p nnn

theorem wordPXKK_toNat (p : BitVec 4) (x : Reg) (kk : Byte) :
    (wordPXKK p x kk).toNat = p.toNat * 4096 + x.val * 256 + kk.toNat := by
  have h := toNat_append_add (p ++ (BitVec.ofFin x : BitVec 4)) kk
  rw [toNat_append_add p] at h
  simp only [BitVec.toNat_ofFin] at h
  exact h.trans (by omega)

theorem wordPXYN_toNat (p : BitVec 4) (x y : Reg) (n : BitVec 4) :
    (wordPXYN p x y n).toNat = p.toNat * 4096 + x.val * 256 + y.val * 16 + n.toNat := by
  have h := toNat_append_add (p ++ (BitVec.ofFin x : BitVec 4) ++ (BitVec.ofFin y : BitVec 4)) n
  rw [toNat_append_add (p ++ (BitVec.ofFin x : BitVec 4)), toNat_append_add p] at h
  simp only [BitVec.toNat_ofFin] at h
  exact h.trans (by omega)

section
variable (p : BitVec 4) (nnn : BitVec 12) (x y : Reg) (kk : Byte) (n : BitVec 4)

@[simp] theorem fieldP_wordPNNN : fieldP (wordPNNN p nnn) = p := by
  apply BitVec.eq_of_toNat_eq; rw [fieldP_toNat, wordPNNN_toNat]; omega

@[simp] theorem fieldNNN_wordPNNN : fieldNNN (wordPNNN p nnn) = nnn := by
  apply BitVec.eq_of_toNat_eq; rw [fieldNNN_toNat, wordPNNN_toNat]; omega

@[simp] theorem fieldP_wordPXKK : fieldP (wordPXKK p x kk) = p := by
  apply BitVec.eq_of_toNat_eq; rw [fieldP_toNat, wordPXKK_toNat]; omega

@[simp] theorem fieldX_wordPXKK : fieldX (wordPXKK p x kk) = x := by
  apply Fin.ext; rw [fieldX_val, wordPXKK_toNat]; omega

@[simp] theorem fieldKK_wordPXKK : fieldKK (wordPXKK p x kk) = kk := by
  apply BitVec.eq_of_toNat_eq; rw [fieldKK_toNat, wordPXKK_toNat]; omega

@[simp] theorem fieldLow_wordPXKK : fieldLow (wordPXKK p x kk) = kk.setWidth 4 := by
  apply BitVec.eq_of_toNat_eq; rw [fieldLow_toNat, wordPXKK_toNat, BitVec.toNat_setWidth]; omega

@[simp] theorem fieldP_wordPXYN : fieldP (wordPXYN p x y n) = p := by
  apply BitVec.eq_of_toNat_eq; rw [fieldP_toNat, wordPXYN_toNat]; omega

@[simp] theorem fieldX_wordPXYN : fieldX (wordPXYN p x y n) = x := by
  apply Fin.ext; rw [fieldX_val, wordPXYN_toNat]; omega

@[simp] theorem fieldY_wordPXYN : fieldY (wordPXYN p x y n) = y := by
  apply Fin.ext; rw [fieldY_val, wordPXYN_toNat]; omega

@[simp] theorem fieldLow_wordPXYN : fieldLow (wordPXYN p x y n) = n := by
  apply BitVec.eq_of_toNat_eq; rw [fieldLow_toNat, wordPXYN_toNat]; omega

@[simp] theorem fieldN_wordPXYN : fieldN (wordPXYN p x y n) = n.toFin := by
  apply Fin.ext; rw [fieldN_val, wordPXYN_toNat]; simp; omega

end

/-! ### The masks of the opcode table -/

/-- A mask over p alone keeps p. -/
theorem and_F000 (op : Word) : op &&& 0xF000#16 = (fieldP op).setWidth 16 <<< 12 := by
  unfold fieldP
  ext k hk
  interval_cases k <;> simp

/-- A mask over p and the low nibble keeps both. -/
theorem and_F00F (op : Word) :
    op &&& 0xF00F#16 = (fieldP op).setWidth 16 <<< 12 ||| (fieldLow op).setWidth 16 := by
  unfold fieldP fieldLow
  ext k hk
  interval_cases k <;> simp

/-- A mask over p and the low byte keeps both. -/
theorem and_F0FF (op : Word) :
    op &&& 0xF0FF#16 = (fieldP op).setWidth 16 <<< 12 ||| (fieldKK op).setWidth 16 := by
  unfold fieldP fieldKK
  ext k hk
  interval_cases k <;> simp

end Sys2Proof
end

