-- ==== Sys2Proof/Laws/Exec.lean ====
section
/-!
SUPPORT. The inversion of `exec`: whatever an executor answers is either a fault or the state of the instruction's own
effect, in the named operations. Every frame and invariant starts from `exec_cases`.
-/

namespace Sys2Proof.Machine

/-- `exec` answers a next state for every instruction in every state. -/
theorem exec_next (i : Instr) (s : State) : ∃ t, exec i s = .next t := by
  cases i
  case ret => simp only [exec, execRet]; split <;> exact ⟨_, rfl⟩
  case call => simp only [exec, execCall]; split <;> exact ⟨_, rfl⟩
  case skp => simp only [exec, execSkp, skipOnKey]; split <;> exact ⟨_, rfl⟩
  case sknp => simp only [exec, execSknp, skipOnKey]; split <;> exact ⟨_, rfl⟩
  case ldVxK => simp only [exec, execLdVxK]; split <;> exact ⟨_, rfl⟩
  case ldB => simp only [exec, execLdB, withBlock]; split <;> exact ⟨_, rfl⟩
  case stRegs => simp only [exec, execStRegs, withBlock]; split <;> exact ⟨_, rfl⟩
  case ldRegs => simp only [exec, execLdRegs, withBlock]; split <;> exact ⟨_, rfl⟩
  case drw => simp only [exec, execDrw, withBlock]; split <;> exact ⟨_, rfl⟩
  all_goals exact ⟨_, rfl⟩

/-- What an executor can answer: a fault, or the instruction's own effect. -/
theorem exec_cases (i : Instr) (s t : State) (h : exec i s = .next t) :
    (∃ c n, c ≠ .none ∧ t = raiseFault s c n) ∨
    (match i with
    | .cls => t = setFb s 0
    | .ret => ∃ h, t = popPc s h
    | .jp n => t = setPc s (zext16 n)
    | .call n => ∃ h, t = setPc (pushPc s h) (zext16 n)
    | .jpV0 n => t = setPc s (zext16 n + (getV s 0).setWidth 16)
    | .seImm x kk => t = skipIf s (getV s x == kk)
    | .sneImm x kk => t = skipIf s (getV s x != kk)
    | .seReg x y => t = skipIf s (getV s x == getV s y)
    | .sneReg x y => t = skipIf s (getV s x != getV s y)
    | .skp x => (getV s x).toNat ≤ 15 ∧ t = skipIf s (keyHeld s (getV s x).toNat == true)
    | .sknp x => (getV s x).toNat ≤ 15 ∧ t = skipIf s (keyHeld s (getV s x).toNat == false)
    | .ldVxK x => (∃ k, lowestKey s = some k ∧ t = setV s x (BitVec.ofNat 8 k)) ∨
        (lowestKey s = none ∧ t = setPc s (s.pc - 2))
    | .ldB x => t = writeBytes s (blockAddr s 0) (bcdDigits (getV s x))
    | .stRegs x => t = writeBytes s (blockAddr s 0) (s.v.toList.take (storeCount s x))
    | .ldRegs x => t = loadRegs s (x.val + 1)
    | .drw x y n => ∃ cells, cells = spriteCells s (s.v[x].toNat % 64) (s.v[y].toNat % 32) n.val ∧
        (∀ p ∈ cells, p < fbCells) ∧
        t = setV (setFb s (drawCells s.fb false cells).1) vf (flagByte (drawCells s.fb false cells).2)
    | .ldImm x kk => t = setV s x kk
    | .addImm x kk => t = setV s x (getV s x + kk)
    | .ldReg x y => t = setV s x (getV s y)
    | .or x y => t = setV s x (getV s x ||| getV s y)
    | .and x y => t = setV s x (getV s x &&& getV s y)
    | .xor x y => t = setV s x (getV s x ^^^ getV s y)
    | .add x y => t = setFlagged s x (getV s x + getV s y) (carryOut (getV s x) (getV s y))
    | .sub x y => t = setFlagged s x (getV s x - getV s y) (noBorrow (getV s x) (getV s y))
    | .subn x y => t = setFlagged s x (getV s y - getV s x) (noBorrow (getV s y) (getV s x))
    | .shr x _ => t = setFlagged s x (getV s x >>> 1) (outRight (getV s x))
    | .shl x _ => t = setFlagged s x (getV s x <<< 1) (outLeft (getV s x))
    | .rnd x kk => t = setV (afterDraw s) x (randomByte s &&& kk)
    | .ldI n => t = setI s (zext16 n)
    | .addI x => t = setI s (s.i + (getV s x).setWidth 16)
    | .ldF x => t = setI s (BitVec.ofNat 16 (s.params.fontBase.val + 5 * (getV s x).toNat))
    | .ldVxDt x => t = setV s x s.dt
    | .ldDtVx x => t = setDt s (getV s x)
    | .ldStVx x => t = setSt s (getV s x)
    | .nop _ => t = s) := by
  cases i
  case ret =>
    simp only [exec, execRet] at h
    split at h <;> next hh => injection h with h; subst h; first | exact .inr ⟨hh, rfl⟩ | exact .inl ⟨_, _, by decide, rfl⟩
  case call =>
    simp only [exec, execCall] at h
    split at h <;> next hh => injection h with h; subst h; first | exact .inr ⟨hh, rfl⟩ | exact .inl ⟨_, _, by decide, rfl⟩
  case skp => exact (skipOnKey_next h).imp (fun h => ⟨_, _, by decide, h.2⟩) id
  case sknp => exact (skipOnKey_next h).imp (fun h => ⟨_, _, by decide, h.2⟩) id
  case ldVxK =>
    simp only [exec, execLdVxK] at h
    split at h <;> next hh => injection h with h; subst h; simp [hh]
  case ldB => exact (withBlock_next h).imp (fun h => ⟨_, _, by decide, h.2⟩) fun h => h.2
  case ldRegs => exact (withBlock_next h).imp (fun h => ⟨_, _, by decide, h.2⟩) fun h => h.2
  case stRegs => exact (withBlock_next h).imp (fun h => ⟨_, _, by decide, h.2⟩) fun h => h.2
  case drw x y n =>
    obtain ⟨-, rfl⟩ | ⟨-, rfl⟩ := withBlock_next h
    · exact .inl ⟨_, _, by decide, rfl⟩
    · obtain ⟨p, -, hd⟩ | ⟨hp, hd⟩ :=
        drawSprite_cases s (spriteCells s ((getV s x).toNat % fbCols) ((getV s y).toNat % fbRows) n.val)
      · exact .inl ⟨_, _, by decide, hd⟩
      · exact .inr ⟨_, rfl, hp, hd⟩
  all_goals
    injection h with h
    exact .inr h.symm

end Sys2Proof.Machine
end

