-- ==== Sys2Proof/Laws/PerInstr.lean ====
section
/-!
SUPPORT. The family TableRow: the encoder's word of a well-formed instruction matches that instruction's row of
spec/opcode_table.json (its mask and match), one lemma per constructor.
-/

namespace Sys2Proof.Laws.TableRow

/-- The mask and the match of an instruction's row of spec/opcode_table.json. -/
def row : Instr → Word × Word
  | .cls => (0xF00F#16, 0x0000#16)
  | .ret => (0xF00F#16, 0x000E#16)
  | .jp _ => (0xF000#16, 0x1000#16)
  | .call _ => (0xF000#16, 0x2000#16)
  | .seImm _ _ => (0xF000#16, 0x3000#16)
  | .sneImm _ _ => (0xF000#16, 0x4000#16)
  | .seReg _ _ => (0xF000#16, 0x5000#16)
  | .ldImm _ _ => (0xF000#16, 0x6000#16)
  | .addImm _ _ => (0xF000#16, 0x7000#16)
  | .ldReg _ _ => (0xF00F#16, 0x8000#16)
  | .or _ _ => (0xF00F#16, 0x8001#16)
  | .and _ _ => (0xF00F#16, 0x8002#16)
  | .xor _ _ => (0xF00F#16, 0x8003#16)
  | .add _ _ => (0xF00F#16, 0x8004#16)
  | .sub _ _ => (0xF00F#16, 0x8005#16)
  | .shr _ _ => (0xF00F#16, 0x8006#16)
  | .subn _ _ => (0xF00F#16, 0x8007#16)
  | .shl _ _ => (0xF00F#16, 0x800E#16)
  | .sneReg _ _ => (0xF000#16, 0x9000#16)
  | .ldI _ => (0xF000#16, 0xA000#16)
  | .jpV0 _ => (0xF000#16, 0xB000#16)
  | .rnd _ _ => (0xF000#16, 0xC000#16)
  | .drw _ _ _ => (0xF000#16, 0xD000#16)
  | .skp _ => (0xF00F#16, 0xE00E#16)
  | .sknp _ => (0xF00F#16, 0xE001#16)
  | .ldVxDt _ => (0xF0FF#16, 0xF007#16)
  | .ldVxK _ => (0xF0FF#16, 0xF00A#16)
  | .ldDtVx _ => (0xF0FF#16, 0xF015#16)
  | .ldStVx _ => (0xF0FF#16, 0xF018#16)
  | .addI _ => (0xF0FF#16, 0xF01E#16)
  | .ldF _ => (0xF0FF#16, 0xF029#16)
  | .ldB _ => (0xF0FF#16, 0xF033#16)
  | .stRegs _ => (0xF0FF#16, 0xF055#16)
  | .ldRegs _ => (0xF0FF#16, 0xF065#16)
  | .nop _ => (0x0000#16, 0x0000#16)

/-- The word of a well-formed instruction has its row's fixed bits. -/
def Statement (i : Instr) : Prop := i.wf = true → encode i &&& (row i).1 = (row i).2

theorem cls : Statement (.cls) := by
  intro _
  decide

theorem ret : Statement (.ret) := by
  intro _
  decide

theorem jp (nnn : BitVec 12) : Statement (.jp nnn) := by
  intro _
  rw [row, encode, and_F000]
  simp

theorem call (nnn : BitVec 12) : Statement (.call nnn) := by
  intro _
  rw [row, encode, and_F000]
  simp

theorem seImm (x : Reg) (kk : Byte) : Statement (.seImm x kk) := by
  intro _
  rw [row, encode, and_F000]
  simp

theorem sneImm (x : Reg) (kk : Byte) : Statement (.sneImm x kk) := by
  intro _
  rw [row, encode, and_F000]
  simp

theorem seReg (x y : Reg) : Statement (.seReg x y) := by
  intro _
  rw [row, encode, and_F000]
  simp

theorem ldImm (x : Reg) (kk : Byte) : Statement (.ldImm x kk) := by
  intro _
  rw [row, encode, and_F000]
  simp

theorem addImm (x : Reg) (kk : Byte) : Statement (.addImm x kk) := by
  intro _
  rw [row, encode, and_F000]
  simp

theorem ldReg (x y : Reg) : Statement (.ldReg x y) := by
  intro _
  rw [row, encode, and_F00F]
  simp

theorem or (x y : Reg) : Statement (.or x y) := by
  intro _
  rw [row, encode, and_F00F]
  simp

theorem and (x y : Reg) : Statement (.and x y) := by
  intro _
  rw [row, encode, and_F00F]
  simp

theorem xor (x y : Reg) : Statement (.xor x y) := by
  intro _
  rw [row, encode, and_F00F]
  simp

theorem add (x y : Reg) : Statement (.add x y) := by
  intro _
  rw [row, encode, and_F00F]
  simp

theorem sub (x y : Reg) : Statement (.sub x y) := by
  intro _
  rw [row, encode, and_F00F]
  simp

theorem shr (x y : Reg) : Statement (.shr x y) := by
  intro _
  rw [row, encode, and_F00F]
  simp

theorem subn (x y : Reg) : Statement (.subn x y) := by
  intro _
  rw [row, encode, and_F00F]
  simp

theorem shl (x y : Reg) : Statement (.shl x y) := by
  intro _
  rw [row, encode, and_F00F]
  simp

theorem sneReg (x y : Reg) : Statement (.sneReg x y) := by
  intro _
  rw [row, encode, and_F000]
  simp

theorem ldI (nnn : BitVec 12) : Statement (.ldI nnn) := by
  intro _
  rw [row, encode, and_F000]
  simp

theorem jpV0 (nnn : BitVec 12) : Statement (.jpV0 nnn) := by
  intro _
  rw [row, encode, and_F000]
  simp

theorem rnd (x : Reg) (kk : Byte) : Statement (.rnd x kk) := by
  intro _
  rw [row, encode, and_F000]
  simp

theorem drw (x y : Reg) (n : Fin 16) : Statement (.drw x y n) := by
  intro _
  rw [row, encode, and_F000]
  simp

theorem skp (x : Reg) : Statement (.skp x) := by
  intro _
  rw [row, encode, and_F00F]
  simp

theorem sknp (x : Reg) : Statement (.sknp x) := by
  intro _
  rw [row, encode, and_F00F]
  simp

theorem ldVxDt (x : Reg) : Statement (.ldVxDt x) := by
  intro _
  rw [row, encode, and_F0FF]
  simp

theorem ldVxK (x : Reg) : Statement (.ldVxK x) := by
  intro _
  rw [row, encode, and_F0FF]
  simp

theorem ldDtVx (x : Reg) : Statement (.ldDtVx x) := by
  intro _
  rw [row, encode, and_F0FF]
  simp

theorem ldStVx (x : Reg) : Statement (.ldStVx x) := by
  intro _
  rw [row, encode, and_F0FF]
  simp

theorem addI (x : Reg) : Statement (.addI x) := by
  intro _
  rw [row, encode, and_F0FF]
  simp

theorem ldF (x : Reg) : Statement (.ldF x) := by
  intro _
  rw [row, encode, and_F0FF]
  simp

theorem ldB (x : Reg) : Statement (.ldB x) := by
  intro _
  rw [row, encode, and_F0FF]
  simp

theorem stRegs (x : Reg) : Statement (.stRegs x) := by
  intro _
  rw [row, encode, and_F0FF]
  simp

theorem ldRegs (x : Reg) : Statement (.ldRegs x) := by
  intro _
  rw [row, encode, and_F0FF]
  simp

theorem nop (word : Word) : Statement (.nop word) := by
  intro _
  exact BitVec.and_zero

end Sys2Proof.Laws.TableRow
end

