-- ==== Sys2Proof/Tests/Slice0.lean ====
section
/-!
SUPPORT. Tests of the model, each a named theorem, and the witnesses that the hypotheses of the obligations can be met.
Expected words come from the encoding table 30 R75; expected results from 95_test_vectors.md, whose vector each test
names (the spec derives them from its rules and marks no vector as measured).
-/

namespace Sys2Proof.Tests

open Sys2Proof Sys2Proof.Machine

/-! ### Well-formedness: the one check, and a term it refuses -/

/-- 6000 is LD V0, 0, so it is no no-op. -/
theorem test_wf_refuses_nop_of_an_instruction_word : (Instr.nop 0x6000#16).wf = false := by decide

/-- 00EF selects no instruction (95 Decode). -/
theorem test_wf_accepts_nop_of_an_unmapped_word : (Instr.nop 0x00EF#16).wf = true := by decide

/-! ### Decoding: one word per constructor, written from the last column of 30 R75 -/

theorem test_decode_cls : decodeTableWord 16 0x00E0 = some (.cls) := by decide
theorem test_decode_ret : decodeTableWord 16 0x00EE = some (.ret) := by decide
theorem test_decode_jp : decodeTableWord 16 0x1234 = some (.jp 0x234) := by decide
theorem test_decode_call : decodeTableWord 16 0x2300 = some (.call 0x300) := by decide
theorem test_decode_seImm : decodeTableWord 16 0x3342 = some (.seImm 3 0x42) := by decide
theorem test_decode_sneImm : decodeTableWord 16 0x4342 = some (.sneImm 3 0x42) := by decide
theorem test_decode_seReg : decodeTableWord 16 0x5120 = some (.seReg 1 2) := by decide
theorem test_decode_ldImm : decodeTableWord 16 0x6FAA = some (.ldImm 15 0xAA) := by decide
theorem test_decode_addImm : decodeTableWord 16 0x7F03 = some (.addImm 15 3) := by decide
theorem test_decode_ldReg : decodeTableWord 16 0x8010 = some (.ldReg 0 1) := by decide
theorem test_decode_or : decodeTableWord 16 0x8231 = some (.or 2 3) := by decide
theorem test_decode_and : decodeTableWord 16 0x8452 = some (.and 4 5) := by decide
theorem test_decode_xor : decodeTableWord 16 0x8673 = some (.xor 6 7) := by decide
theorem test_decode_add : decodeTableWord 16 0x8F14 = some (.add 15 1) := by decide
theorem test_decode_sub : decodeTableWord 16 0x80F5 = some (.sub 0 15) := by decide
theorem test_decode_shr : decodeTableWord 16 0x8016 = some (.shr 0 1) := by decide
theorem test_decode_subn : decodeTableWord 16 0x8A97 = some (.subn 10 9) := by decide
theorem test_decode_shl : decodeTableWord 16 0x8F0E = some (.shl 15 0) := by decide
theorem test_decode_sneReg : decodeTableWord 16 0x9120 = some (.sneReg 1 2) := by decide
theorem test_decode_ldI : decodeTableWord 16 0xA2F0 = some (.ldI 0x2F0) := by decide
theorem test_decode_jpV0 : decodeTableWord 16 0xB5FF = some (.jpV0 0x5FF) := by decide
theorem test_decode_rnd : decodeTableWord 16 0xC10F = some (.rnd 1 0x0F) := by decide
theorem test_decode_drw : decodeTableWord 16 0xD235 = some (.drw 2 3 5) := by decide
theorem test_decode_skp : decodeTableWord 16 0xE29E = some (.skp 2) := by decide
theorem test_decode_sknp : decodeTableWord 16 0xE2A1 = some (.sknp 2) := by decide
theorem test_decode_ldVxDt : decodeTableWord 16 0xF307 = some (.ldVxDt 3) := by decide
theorem test_decode_ldVxK : decodeTableWord 16 0xF10A = some (.ldVxK 1) := by decide
theorem test_decode_ldDtVx : decodeTableWord 16 0xF015 = some (.ldDtVx 0) := by decide
theorem test_decode_ldStVx : decodeTableWord 16 0xF418 = some (.ldStVx 4) := by decide
theorem test_decode_addI : decodeTableWord 16 0xF21E = some (.addI 2) := by decide
theorem test_decode_ldF : decodeTableWord 16 0xF129 = some (.ldF 1) := by decide
theorem test_decode_ldB : decodeTableWord 16 0xF533 = some (.ldB 5) := by decide
theorem test_decode_stRegs : decodeTableWord 16 0xFF55 = some (.stRegs 15) := by decide
theorem test_decode_ldRegs : decodeTableWord 16 0xF265 = some (.ldRegs 2) := by decide
theorem test_decode_nop : decodeTableWord 16 0x8018 = some (.nop 0x8018) := by decide

/-- Encoding writes the same canonical words (30 R75, R81): the ignored bits of 00E0, Ex9E and 8xyE. -/
theorem test_encode_canonical :
    encode .cls = 0x00E0#16 ∧ encode (.skp 2) = 0xE29E#16 ∧ encode (.shl 15 0) = 0x8F0E#16 := by decide

/-- A string shorter than a word is rejected by name. -/
theorem test_decode_rejects_half_a_word :
    (match decode [0x60] with | .error e => some e | .ok _ => none) = some DecodeError.endOfBytes := by decide

/-! ### One step each, from the reset state with a few registers set -/

/-- The state one step later. -/
def afterStep (s : State) : State :=
  match step s with
  | .next t => t
  | .fault _ => s
  | .refused _ => s

/-- The state after the one Cycle that runs the word `w`, placed at PC. -/
def ran (w : Nat) (s : State) : State := afterStep (s.withFetchWord 16 w)

/-- Reset with two registers set. -/
def withV (x : Reg) (a : Byte) (y : Reg) (b : Byte) : State := setV (setV State.reset x a) y b

/-- Reset with I, one register and the bytes at 0x300 set. -/
def withI (i : Word) (x : Reg) (a : Byte) (bytes : List Byte) : State :=
  writeBytes { setV State.reset x a with i := i } 0x300 bytes

/-- The fault record: HALTED, FAULT_CAUSE, FAULT_PC, FAULT_OPCODE, FAULT_ADDR. -/
def record (s : State) : Bool × FaultCause × Word × Word × BitVec 17 :=
  (s.halted, s.faultCause, s.faultPc, s.faultOpcode, s.faultAddr)

/-- Three bytes of memory. -/
def three (s : State) (a : Nat) : List Byte := [readByte s a, readByte s (a + 1), readByte s (a + 2)]

/-- Vectors C6 and C7. -/
theorem test_cls :
    (ran 0x0120 { State.reset with fb := 1#2048 <<< 100 }).fb = 0 := by decide +kernel

/-- Vector CF1: the slot keeps its value. -/
theorem test_ret :
    let t := ran 0x00EE { State.reset with sp := 1, stack := State.reset.stack.set 0 0x202 }
    t.pc = 0x202 ∧ t.sp = 0 ∧ t.stack[0] = 0x202 := by decide

/-- Vector CF2. -/
theorem test_ret_underflow :
    let t := ran 0x00EE State.reset
    t.pc = 0x200 ∧ record t = (true, .stackUnderflow, 0x200, 0x00EE, 0) := by decide

/-- Vector CF3. -/
theorem test_jp :
    (ran 0x1234 State.reset).pc = 0x234 := by decide

/-- Vector CF7: the last free slot. -/
theorem test_call :
    let t := ran 0x2300 { State.reset with sp := 15 }
    t.pc = 0x300 ∧ t.sp = 16 ∧ t.stack[15] = 0x202 := by decide

/-- Vector CF8. -/
theorem test_call_overflow :
    let t := ran 0x2300 { State.reset with sp := 16 }
    t.sp = 16 ∧ record t = (true, .stackOverflow, 0x200, 0x2300, 0x10) := by decide

/-- Vector CF10: not reduced to 12 bits. -/
theorem test_jpV0 :
    (ran 0xBFFF (withV 0 0xFF 1 0)).pc = 0x10FE := by decide

/-- Vector CF11: bits 11:8 are part of nnn. -/
theorem test_jpV0_always_v0 :
    (ran 0xB5FF (withV 0 0x01 5 0x77)).pc = 0x600 := by decide

/-- Vectors CF12 and CF13. -/
theorem test_seImm :
    (ran 0x3342 (withV 3 0x42 0 0)).pc = 0x204 ∧ (ran 0x3342 (withV 3 0x41 0 0)).pc = 0x202 := by decide

/-- Vectors CF14 and CF15. -/
theorem test_sneImm :
    (ran 0x4342 (withV 3 0x42 0 0)).pc = 0x202 ∧ (ran 0x4342 (withV 3 0x41 0 0)).pc = 0x204 := by decide

/-- Vectors CF16 and CF17. -/
theorem test_seReg :
    (ran 0x5120 (withV 1 7 2 7)).pc = 0x204 ∧ (ran 0x5120 (withV 1 7 2 8)).pc = 0x202 := by decide

/-- Vectors CF19 and CF20. -/
theorem test_sneReg :
    (ran 0x9120 (withV 1 7 2 8)).pc = 0x204 ∧ (ran 0x9440 (withV 4 9 0 0)).pc = 0x202 := by decide

/-- Vector A2. -/
theorem test_ldImm :
    (ran 0x6FAA State.reset).v[15] = 0xAA := by decide

/-- Vector A4: no carry. -/
theorem test_addImm :
    let t := ran 0x7001 (withV 0 0xFF 15 0)
    t.v[0] = 0 ∧ t.v[15] = 0 := by decide

/-- Vector A6. -/
theorem test_ldReg :
    let t := ran 0x8010 (withV 0 0 1 0x33)
    t.v[0] = 0x33 ∧ t.v[1] = 0x33 := by decide

/-- Vector A7: VF stays. -/
theorem test_or :
    let t := ran 0x8011 (setV (withV 0 0x0F 1 0xF0) 15 7)
    t.v[0] = 0xFF ∧ t.v[15] = 7 := by decide

/-- Vector A8: VF stays. -/
theorem test_and :
    let t := ran 0x8012 (setV (withV 0 0x3C 1 0x0F) 15 7)
    t.v[0] = 0x0C ∧ t.v[15] = 7 := by decide

/-- Vector A9: VF stays. -/
theorem test_xor :
    let t := ran 0x8013 (setV (withV 0 0x3C 1 0x0F) 15 7)
    t.v[0] = 0x33 ∧ t.v[15] = 7 := by decide

/-- Vector A11. -/
theorem test_add :
    let t := ran 0x8014 (withV 0 250 1 10)
    t.v[0] = 4 ∧ t.v[15] = 1 := by decide

/-- Vectors A15 and A16: x = F and y = F. -/
theorem test_add_into_vf :
    (ran 0x8F14 (withV 15 0xFF 1 3)).v[15] = 2 ∧ (ran 0x80F4 (withV 0 1 15 0xFF)).v[0] = 0 := by decide

/-- Vector A19. -/
theorem test_sub :
    let t := ran 0x8015 (withV 0 3 1 5)
    t.v[0] = 0xFE ∧ t.v[15] = 0 := by decide

/-- Vector A18: equal operands give no flag. -/
theorem test_sub_strict :
    let t := ran 0x8015 (withV 0 5 1 5)
    t.v[0] = 0 ∧ t.v[15] = 0 := by decide

/-- Vector A22: y is ignored. -/
theorem test_shr :
    let t := ran 0x8016 (withV 0 1 1 0xFF)
    t.v[0] = 0 ∧ t.v[15] = 1 := by decide

/-- Vector A24: x = F. -/
theorem test_shr_vf :
    (ran 0x8F06 (withV 15 6 0 0)).v[15] = 3 := by decide

/-- Vector A25. -/
theorem test_subn :
    let t := ran 0x8017 (withV 0 3 1 5)
    t.v[0] = 2 ∧ t.v[15] = 1 := by decide

/-- Vector A26. -/
theorem test_subn_strict :
    let t := ran 0x8017 (withV 0 5 1 5)
    t.v[0] = 0 ∧ t.v[15] = 0 := by decide

/-- Vector A28. -/
theorem test_shl :
    let t := ran 0x800E (withV 0 0x81 1 0)
    t.v[0] = 2 ∧ t.v[15] = 1 := by decide

/-- Vector A30: x = F. -/
theorem test_shl_vf :
    (ran 0x8F0E (withV 15 0xC0 0 0)).v[15] = 0x80 := by decide

/-- Vectors A31 to A33, for every random byte: the byte of this draw AND kk; mask 0 gives 0. -/
theorem test_rnd (s : State) :
    exec (.rnd 1 0x0F) s = .next { s with
      v := s.v.set 1 (Config.randomByte s.draws &&& 0x0F), draws := s.draws + 1 } := rfl

theorem test_rnd_mask_zero (s : State) : ∃ t, exec (.rnd 1 0) s = .next t ∧ t.v[1] = 0 :=
  ⟨_, rfl, by simp [setV, afterDraw]⟩

/-- Vector M1. -/
theorem test_ldI :
    (ran 0xA2F0 { State.reset with i := 0xFFFF }).i = 0x2F0 := by decide

/-- Vectors M3 and M4. -/
theorem test_addI :
    (ran 0xF01E (withI 0xFFF 0 1 [])).i = 0x1000 ∧ (ran 0xF01E (withI 0xFFFF 0 1 [])).i = 0 := by decide

/-- Vectors M5 and M8. -/
theorem test_ldF :
    (ran 0xF129 (withV 1 0x0A 0 0)).i = 0x082 ∧ (ran 0xF129 (withV 1 0xFF 0 0)).i = 0x54B := by decide

/-- Vector PV3: FONT_BASE = 0x000. -/
theorem test_ldF_params :
    (ran 0xF129 { withV 1 0x0A 0 0 with params := { defaultParams with fontBase := 0 } }).i = 0x032 := by decide

/-- Vector M9. -/
theorem test_ldB :
    let t := ran 0xF533 (withI 0x300 5 156 [])
    three t 0x300 = [1, 5, 6] ∧ t.i = 0x300 := by decide

/-- Vectors M12 and M13: the last address that fits, and the first that does not. -/
theorem test_ldB_fault :
    three (ran 0xF533 (withI 0xFFD 5 7 [])) 0xFFD = [0, 0, 7] ∧
    record (ran 0xF533 (withI 0xFFE 5 7 [])) = (true, .memWriteOor, 0x200, 0xF533, 0x1000) := by decide

/-- Vectors M14 and PV1: EXCLUSIVE and INCLUSIVE. -/
theorem test_stRegs :
    let s := { setV (withV 0 0x11 1 0x22) 2 0x33 with i := 0x400 }
    three (ran 0xF255 s) 0x400 = [0x11, 0x22, 0] ∧
      three (ran 0xF255 { s with params := { defaultParams with fx55Bound := .inclusive } }) 0x400 = [0x11, 0x22, 0x33] := by decide

/-- Vectors M16 and M18: an empty block checks nothing. -/
theorem test_stRegs_fault :
    (ran 0xF055 (withI 0x2000 0 0x11 [])).halted = false ∧
    record (ran 0xF255 (withI 0xFFF 0 1 [])) = (true, .memWriteOor, 0x200, 0xF255, 0x1000) := by decide

/-- Vector M20. -/
theorem test_ldRegs :
    let t := ran 0xF265 (withI 0x300 3 0 [1, 5, 6])
    t.v[0] = 1 ∧ t.v[2] = 6 ∧ t.v[3] = 0 ∧ t.i = 0x300 := by decide

/-- Vector M23. -/
theorem test_ldRegs_fault :
    let t := ran 0xF265 (withI 0xFFE 2 0x77 [])
    t.v[2] = 0x77 ∧ record t = (true, .memReadOor, 0x200, 0xF265, 0x1000) := by decide

/-- Vector G5: a sprite that crosses the right edge spills into the next row. -/
theorem test_drw :
    let t := ran 0xD011 (withI 0x300 0 62 [0xFF])
    t.v[15] = 0 ∧ [62, 63, 64, 69, 70].map t.fb.getLsbD = [true, true, true, true, false] := by decide +kernel

/-- Vector G7: FB_OOR, and no pixel drawn. -/
theorem test_drw_fault :
    let t := ran 0xD012 (withI 0x300 1 31 [0x80, 0x80])
    t.fb = 0 ∧ record t = (true, .fbOor, 0x200, 0xD012, 0x800) := by decide +kernel

/-- Vectors K1 and K2. -/
theorem test_skp :
    (ran 0xE29E { withV 2 7 0 0 with key := 0x80 }).pc = 0x204 ∧
    (ran 0xE29E { withV 2 7 0 0 with key := 0x40 }).pc = 0x202 := by decide

/-- Vectors K3 and K17: no timer ticks. -/
theorem test_skp_fault :
    let t := ran 0xE29E { withV 2 0x10 0 0 with dt := 3 }
    t.dt = 3 ∧ record t = (true, .keyOor, 0x200, 0xE29E, 0x10) := by decide

/-- Vectors K4 and K5. -/
theorem test_sknp :
    (ran 0xE2A1 (withV 2 7 0 0)).pc = 0x204 ∧
    (ran 0xE2A1 { withV 2 7 0 0 with key := 0x80 }).pc = 0x202 := by decide

/-- Vector K6. -/
theorem test_sknp_fault :
    record (ran 0xE2A1 (withV 2 0xFF 0 0)) = (true, .keyOor, 0x200, 0xE2A1, 0xFF) := by decide

/-- Vector K8: the lowest held key. -/
theorem test_ldVxK :
    let t := ran 0xF10A { State.reset with pc := 0x204, key := 0x208 }
    t.pc = 0x206 ∧ t.v[1] = 3 := by decide

/-- Vector K7. -/
theorem test_ldVxK_waits :
    let t := ran 0xF10A { withV 1 0x55 0 0 with pc := 0x204, dt := 3 }
    t.pc = 0x204 ∧ t.v[1] = 0x55 ∧ t.dt = 2 := by decide

/-- Vector K11: before the tick. -/
theorem test_ldVxDt :
    let t := ran 0xF307 { State.reset with dt := 1 }
    t.v[3] = 1 ∧ t.dt = 0 := by decide

/-- Vectors K12 and K14: the same Cycle ticks. -/
theorem test_ldDtVx :
    (ran 0xF015 (withV 0 3 1 0)).dt = 2 ∧ (ran 0xF015 { State.reset with dt := 9 }).dt = 0 := by decide

/-- Vector K15. -/
theorem test_ldStVx :
    (ran 0xF418 (withV 4 10 0 0)).st = 9 := by decide

/-- Vector C1. -/
theorem test_nop :
    let t := ran 0xFFFF { State.reset with dt := 5 }
    t.pc = 0x202 ∧ t.dt = 4 ∧ t.halted = false := by decide

/-! ### The Cycle, the loader and reset -/

/-- Vector C14. -/
theorem test_fetch_fault :
    let t := afterStep { State.reset with pc := 0xFFF }
    t.pc = 0xFFF ∧ record t = (true, .fetchOor, 0xFFF, 0, 0x1000) := by decide

/-- Vector C15. -/
theorem test_fetch_last :
    let t := ran 0x00E0 { State.reset with pc := 0xFFE, dt := 3 }
    t.pc = 0x1000 ∧ t.dt = 2 ∧ t.halted = false := by decide

/-- Vector C17. -/
theorem test_halted_cycle :
    let t := afterStep { State.reset.withFetchWord 16 0x6042 with halted := true, dt := 5, st := 2 }
    t.pc = 0x200 ∧ t.v[0] = 0 ∧ t.dt = 5 ∧ t.st = 2 ∧ t.halted = true := by decide

/-- 60 R222: after a fault OPCODE is what it was before the Cycle. -/
theorem test_opcode_after_fault :
    (ran 0x00EE { State.reset with opcode := 0x1234 }).opcode = 0x1234 := by decide

/-- Vectors LV3 and LV5, small. -/
theorem test_load :
    let t := afterStep { State.reset with pending := [.load [0xAA, 0xBB]] }
    three t 0x200 = [0xAA, 0xBB, 0] ∧ t.loadStatus = .ok ∧ t.loaded = true := by decide

/-- 70 R250 and 10 R42: KEY stays. -/
theorem test_reset_command :
    let t := afterStep { ran 0x00EE State.reset with key := 3, pending := [.reset] }
    t.halted = false ∧ t.pc = 0x200 ∧ t.key = 3 ∧ readByte t 0x50 = 0xF0 := by decide

/-! ### Witnesses: for every obligation with hypotheses, states and operands that meet them

Each clause has its own, at a boundary value where the hypothesis is a range. -/

theorem witness_decodeOfEncode :
    (Instr.drw 15 15 15).wf = true ∧ (Instr.nop 0x8008#16).wf = true :=
  by decide

theorem witness_ignoredBits :
    (fieldP 0x0FF0#16 = 0 ∧ fieldLow 0x0FF0#16 = 0) ∧ (fieldP 0x0FFE#16 = 0 ∧ fieldLow 0x0FFE#16 = 0xE) ∧
    (fieldP 0x0FFF#16 = 0 ∧ fieldLow 0x0FFF#16 ≠ 0 ∧ fieldLow 0x0FFF#16 ≠ 0xE) ∧
    (fieldP 0xE0FE#16 = 0xE ∧ fieldLow 0xE0FE#16 = 0xE) ∧ (fieldP 0xE0F1#16 = 0xE ∧ fieldLow 0xE0F1#16 = 1) ∧
    fieldP 0x512F#16 = 5 ∧ fieldP 0x912F#16 = 9 ∧ fieldP 0x8FFF#16 = 8 ∧ fieldP 0xFFFF#16 = 0xF :=
  by decide

theorem witness_cycle :
    (∃ s : State, s.halted = true) ∧ (∃ s : State, s.halted = false ∧ s.pc.toNat = 0x0FFF) ∧
    ∃ (s : State) (op : Word), s.pc.toNat = 0x0FFE ∧ Fetches s ∧
      op.toNat = (readByte s s.pc.toNat).toNat * 256 + (readByte s (s.pc.toNat + 1)).toNat :=
  ⟨⟨{ State.reset with halted := true }, rfl⟩, ⟨{ State.reset with pc := 0xFFF }, rfl, rfl⟩,
    { State.reset with pc := 0xFFE }, 0, rfl, by decide, by decide⟩

theorem witness_stepTakes :
    (∃ s : State, s.pending = []) ∧ ∃ s : State, s.pending = .reset :: [.cycle] :=
  ⟨⟨State.reset, rfl⟩, { State.reset with pending := [.reset, .cycle] }, rfl⟩

theorem witness_stepRunsTheDecodedInstruction :
    ∃ (s t : State) (i : Instr) (rest : List Byte), Ready s ∧
      decode [readByte s s.pc.toNat, readByte s (s.pc.toNat + 1)] = .ok (i, rest) ∧ i.wf = true ∧
      exec i (Fetched s (fetchWord s)) = .next t :=
  ⟨State.reset.withFetchWord 16 0x6142, _, .ldImm 1 0x42, [], by decide, rfl, rfl, rfl⟩

theorem witness_nop :
    NoRowMatches 0x00EF#16 ∧ NoRowMatches 0xFFFF#16 ∧
    ∃ s : State, Fetches s ∧ NoRowMatches (fetchWord s) :=
  ⟨by simp [NoRowMatches, instructionRows], by simp [NoRowMatches, instructionRows], State.reset.withFetchWord 16 0xF10B,
    by decide, by rw [show fetchWord (State.reset.withFetchWord 16 0xF10B) = 0xF10B by decide]; simp [NoRowMatches, instructionRows]⟩

theorem witness_tick :
    ∃ s t : State, Fetches s ∧ hostAction .cycle s = .next t ∧ t.halted = false ∧ decodeWord (fetchWord s) = .ldDtVx 0 :=
  ⟨State.reset.withFetchWord 16 0xF015, _, by decide, rfl, rfl, by decide⟩

theorem witness_tick_sound :
    ∃ s t : State, Fetches s ∧ hostAction .cycle s = .next t ∧ t.halted = false ∧ decodeWord (fetchWord s) = .ldStVx 4 :=
  ⟨State.reset.withFetchWord 16 0xF418, _, by decide, rfl, rfl, by decide⟩

/-- Also a tick with neither Fx15 nor Fx18. -/
theorem witness_pcChanges :
    ∃ s t : State, Fetches s ∧ hostAction .cycle s = .next t ∧ t.halted = false ∧ decodeWord (fetchWord s) = .jpV0 0xFFF :=
  ⟨State.reset.withFetchWord 16 0xBFFF, _, by decide, rfl, rfl, by decide⟩

/-- Words that match the rows' masks and matches, every other bit set. -/
theorem witness_rowMatches1 :
    0x0FFE#16 &&& 0xF00F#16 = 0x000E#16 ∧ 0x1FFF#16 &&& 0xF000#16 = 0x1000#16 ∧
    0xBFFF#16 &&& 0xF000#16 = 0xB000#16 ∧ 0x2FFF#16 &&& 0xF000#16 = 0x2000#16 ∧
    0x3FFF#16 &&& 0xF000#16 = 0x3000#16 ∧ 0x4FFF#16 &&& 0xF000#16 = 0x4000#16 ∧
    0x5FFF#16 &&& 0xF000#16 = 0x5000#16 ∧ 0x9FFF#16 &&& 0xF000#16 = 0x9000#16 ∧
    0x6FFF#16 &&& 0xF000#16 = 0x6000#16 ∧ 0x7FFF#16 &&& 0xF000#16 = 0x7000#16 ∧
    0x8FF0#16 &&& 0xF00F#16 = 0x8000#16 ∧ 0x8FF1#16 &&& 0xF00F#16 = 0x8001#16 :=
  by decide

/-- Words that match the rows' masks and matches, every other bit set. -/
theorem witness_rowMatches2 :
    0x8FF2#16 &&& 0xF00F#16 = 0x8002#16 ∧ 0x8FF3#16 &&& 0xF00F#16 = 0x8003#16 ∧
    0x8FF4#16 &&& 0xF00F#16 = 0x8004#16 ∧ 0x8FF5#16 &&& 0xF00F#16 = 0x8005#16 ∧
    0x8FF6#16 &&& 0xF00F#16 = 0x8006#16 ∧ 0x8FF7#16 &&& 0xF00F#16 = 0x8007#16 ∧
    0x8FFE#16 &&& 0xF00F#16 = 0x800E#16 ∧ 0xCFFF#16 &&& 0xF000#16 = 0xC000#16 ∧
    0xAFFF#16 &&& 0xF000#16 = 0xA000#16 ∧ 0xFF1E#16 &&& 0xF0FF#16 = 0xF01E#16 ∧
    0xFF29#16 &&& 0xF0FF#16 = 0xF029#16 ∧ 0xFF33#16 &&& 0xF0FF#16 = 0xF033#16 :=
  by decide

/-- Words that match the rows' masks and matches, every other bit set. -/
theorem witness_rowMatches3 :
    0xFF55#16 &&& 0xF0FF#16 = 0xF055#16 ∧ 0xFF65#16 &&& 0xF0FF#16 = 0xF065#16 ∧
    0xFF0A#16 &&& 0xF0FF#16 = 0xF00A#16 ∧ 0xFF07#16 &&& 0xF0FF#16 = 0xF007#16 ∧
    0xFF15#16 &&& 0xF0FF#16 = 0xF015#16 ∧ 0xFF18#16 &&& 0xF0FF#16 = 0xF018#16 ∧
    0x0FF0#16 &&& 0xF00F#16 = 0x0000#16 ∧ 0xDFFF#16 &&& 0xF000#16 = 0xD000#16 ∧
    0xEFFE#16 &&& 0xF00F#16 = 0xE00E#16 ∧ 0xEFF1#16 &&& 0xF00F#16 = 0xE001#16 :=
  by decide

theorem witness_ret :
    (∃ (s : State) (k : Fin 16), s.sp.val = k.val + 1 ∧ k = 15) ∧ (∃ (s : State) (k : Fin 16), s.sp.val = k.val + 1 ∧ k = 0) ∧
    State.reset.sp.val = 0 :=
  ⟨⟨{ State.reset with sp := 16 }, 15, rfl, rfl⟩, ⟨{ State.reset with sp := 1 }, 0, rfl, rfl⟩, rfl⟩

theorem witness_call :
    (∃ s : State, s.sp.val = 15 ∧ s.sp.val < 16) ∧ ∃ s : State, s.sp.val = 16 :=
  ⟨⟨{ State.reset with sp := 15 }, rfl, by decide⟩, { State.reset with sp := 16 }, rfl⟩

/-- The addresses beside the font. -/
theorem witness_font :
    (0x04F < 0x050 ∨ 0x0A0 ≤ 0x04F) ∧ (0x0A0 < 0x050 ∨ 0x0A0 ≤ 0x0A0) :=
  by decide

theorem witness_bcd :
    (∃ s : State, MemoryOk s ∧ s.i.toNat + 2 = 0x0FFF) ∧ ∃ s : State, s.i.toNat + 2 = 0x1000 :=
  ⟨⟨{ State.reset with i := 0xFFD }, by decide, rfl⟩, { State.reset with i := 0xFFE }, rfl⟩

theorem witness_blockStore :
    (∃ (s : State) (x : Reg), MemoryOk s ∧ s.params.fx55Bound = .exclusive ∧ x.val = 0 ∧ s.i.toNat = 0xFFFF) ∧
    (∃ (s : State) (x : Reg), MemoryOk s ∧ s.params.fx55Bound = .exclusive ∧ s.i.toNat + x.val - 1 = 0x0FFF) ∧
    (∃ (s : State) (x : Reg), MemoryOk s ∧ s.params.fx55Bound = .inclusive ∧ s.i.toNat + (x.val + 1) - 1 = 0x0FFF) ∧
    ∃ (s : State) (x : Reg), s.params.fx55Bound = .inclusive ∧ 0 < x.val + 1 ∧ s.i.toNat + (x.val + 1) - 1 = 0x1000 :=
  ⟨⟨{ State.reset with i := 0xFFFF }, 0, by decide, rfl, rfl, rfl⟩,
    ⟨{ State.reset with i := 0xFF1 }, 15, by decide, rfl, rfl⟩,
    ⟨{ State.reset with i := 0xFF0, params := { defaultParams with fx55Bound := .inclusive } }, 15, by decide, rfl, rfl⟩,
    { State.reset with i := 0x1000, params := { defaultParams with fx55Bound := .inclusive } }, 0, rfl, by decide, rfl⟩

theorem witness_blockLoad :
    (∃ (s : State) (x : Reg), s.i.toNat + x.val = 0x0FFF ∧ x = 15) ∧ ∃ (s : State) (x : Reg), s.i.toNat + x.val = 0x1000 :=
  ⟨⟨{ State.reset with i := 0xFF0 }, 15, rfl, rfl⟩, { State.reset with i := 0x1000 }, 0, rfl⟩

/-- Program P8: the stored word is fetched. -/
theorem witness_fetchSeesStoredBytes :
    ∃ (s t u : State) (x r r' : Reg), MemoryOk s ∧ s.halted = false ∧ exec (.stRegs x) s = .next t ∧ t.halted = false ∧
      r'.val = r.val + 1 ∧ r'.val < storeCount s x ∧ u.mem = t.mem ∧ u.params = t.params ∧ u.pc.toNat = s.i.toNat + r.val :=
  ⟨{ State.reset with i := 0x20A }, _, { State.reset with pc := 0x20A }, 2, 0, 1, by decide, rfl, rfl, rfl, rfl, by decide, rfl,
    rfl, rfl⟩

/-- Vector G10: the last cell. -/
theorem witness_sprite_drawn :
    ∃ (s : State) (x y : Reg) (n : Fin 16), s.i.toNat + n.val - 1 ≤ 0x0FFF ∧ n.val = 1 ∧
      (∀ r < n.val, ∀ c < 8, spritePixel s r c → spriteCell s x y r c ≤ 2047) ∧ spritePixel s 0 0 ∧ spriteCell s x y 0 0 = 2047 :=
  ⟨setV (withI 0x300 0 63 [0x80]) 1 31, 0, 1, 1, by decide, rfl, by decide, by decide, by decide⟩

/-- Vector G7. -/
theorem witness_sprite_fbOor :
    ∃ (s : State) (x y : Reg) (n : Fin 16), s.i.toNat + n.val - 1 ≤ 0x0FFF ∧
      spritePixel s 1 0 ∧ spriteCell s x y 1 0 = 2048 ∧ n.val = 2 ∧
      ∀ r' < n.val, ∀ c' < 8, r' < 1 ∨ (r' = 1 ∧ c' < 0) → spritePixel s r' c' → spriteCell s x y r' c' ≤ 2047 :=
  ⟨withI 0x300 1 31 [0x80, 0x80], 0, 1, 2, by decide, by decide, by decide, rfl, by decide⟩

/-- Vector G12. -/
theorem witness_sprite_memOor :
    ∃ (s : State) (n : Fin 16), 0 < n.val ∧ 0x0FFF < s.i.toNat + n.val - 1 ∧ s.i.toNat + n.val - 1 = 0x1000 :=
  ⟨{ State.reset with i := 0xFFF }, 2, by decide, by decide, rfl⟩

/-- Vectors G2 and G3. -/
theorem witness_drawTwice :
    ∃ (s t u : State) (x y : Reg) (n : Fin 16), s.halted = false ∧ exec (.drw x y n) s = .next t ∧ t.halted = false ∧
      t.v[x] = s.v[x] ∧ t.v[y] = s.v[y] ∧ exec (.drw x y n) t = .next u ∧
      ∃ r < n.val, ∃ c < 8, spritePixel s r c ∧ s.fb.getLsbD (spriteCell s x y r c) = false :=
  ⟨{ State.reset with i := 0x50 }, _, _, 0, 1, 5, rfl, rfl, by decide +kernel, by decide +kernel, by decide +kernel, rfl, 0, by decide, 0, by decide,
    by decide +kernel, by decide +kernel⟩

theorem witness_keys :
    ∃ s : State, s.v[(0 : Reg)].toNat = 15 ∧ 15 < s.v[(1 : Reg)].toNat ∧ s.v[(1 : Reg)].toNat = 16 :=
  ⟨withV 0 15 1 16, by decide⟩

theorem witness_wait :
    (∃ (s : State) (k : Nat), k = 15 ∧ k < 16 ∧ s.key.getLsbD k = true ∧ ∀ j < k, s.key.getLsbD j = false) ∧
    ∃ s : State, Fetches s ∧ decodeWord (fetchWord s) = .ldVxK 3 ∧ ∀ k < 16, s.key.getLsbD k = false :=
  ⟨⟨{ State.reset with key := 0x8000 }, 15, rfl, by decide, by decide, by decide⟩,
    State.reset.withFetchWord 16 0xF30A, by decide, by decide, by decide⟩

theorem witness_timers :
    ∃ s s' s'' : State, (Fetches s ∧ decodeWord (fetchWord s) = .ldVxDt 3) ∧ (Fetches s' ∧ decodeWord (fetchWord s') = .ldDtVx 0) ∧
      Fetches s'' ∧ decodeWord (fetchWord s'') = .ldStVx 4 :=
  ⟨State.reset.withFetchWord 16 0xF307, State.reset.withFetchWord 16 0xF015, State.reset.withFetchWord 16 0xF418, by decide⟩

/-- A fault of an executor at the last fetch address. -/
theorem witness_faultsArePrecise :
    ∃ s t : State, s.halted = false ∧ hostAction .cycle s = .next t ∧ t.halted = true ∧ s.pc.toNat = 0x0FFE :=
  ⟨{ State.reset with pc := 0xFFE }.withFetchWord 16 0x00EE, _, by decide, rfl, by decide, by decide⟩

theorem witness_faultsArePrecise_fetch :
    ∃ s t : State, s.halted = false ∧ hostAction .cycle s = .next t ∧ t.halted = true ∧ s.pc.toNat = 0x0FFF :=
  ⟨{ State.reset with pc := 0xFFF }, _, rfl, rfl, rfl, rfl⟩

theorem witness_faultTable :
    faultOf .ret State.reset = some (.stackUnderflow, 0) ∧
    faultOf (.call 0) { State.reset with sp := 16 } = some (.stackOverflow, 16) ∧
    faultOf (.ldB 0) { State.reset with i := 0xFFE } = some (.memWriteOor, 0x1000) ∧
    faultOf (.stRegs 1) { State.reset with i := 0x1000 } = some (.memWriteOor, 0x1000) ∧
    faultOf (.ldRegs 15) { State.reset with i := 0xFF1 } = some (.memReadOor, 0x1000) ∧
    faultOf (.drw 0 1 1) { State.reset with i := 0xFFFF } = some (.memReadOor, 0xFFFF) ∧
    faultOf (.skp 0) (withV 0 16 1 0) = some (.keyOor, 16) ∧ faultOf (.sknp 0) (withV 0 255 1 0) = some (.keyOor, 255) ∧
    faultOf .cls State.reset = none ∧ faultOf (.stRegs 0) { State.reset with i := 0xFFFF } = none :=
  by decide

/-- Vector G9. -/
theorem witness_faultTable_fb :
    faultOf (.drw 0 1 1) (setV (withI 0x300 0 63 [0x01]) 1 31) = some (.fbOor, 0x806) :=
  by decide

theorem witness_halted :
    ∃ s t : State, StatusOk s ∧ s.halted = true ∧ step s = .next t ∧ s.pending.head? = some .reset :=
  ⟨{ ran 0x00EE State.reset with pending := [.reset] }, _, by decide, by decide, rfl, by decide⟩

theorem witness_halted_cycle :
    ∃ s t : State, StatusOk s ∧ s.halted = true ∧ step s = .next t ∧ s.pending = [] :=
  ⟨ran 0x00EE State.reset, _, by decide, by decide, rfl, by decide⟩

theorem witness_outputs :
    ∃ c r : Nat, c < 64 ∧ r < 32 ∧ r * 64 + c = 2047 :=
  ⟨63, 31, by decide⟩

/-- Vector LV1. -/
theorem witness_load :
    ∃ (s : State) (bytes : List Byte), MemoryOk s ∧ s.loaded = false ∧ bytes.length = 3584 :=
  ⟨State.reset, List.replicate 3584 0xAA, by decide, rfl, List.length_replicate⟩

/-- Vectors LV2 and LV4. -/
theorem witness_loadRefused :
    (∃ (s : State) (bytes : List Byte), s.loaded = false ∧ bytes.length = 3585) ∧
    ∃ s : State, s.loaded = true :=
  ⟨⟨State.reset, List.replicate 3585 0xAA, rfl, List.length_replicate⟩, { State.reset with loaded := true }, rfl⟩

theorem witness_loaded :
    (∃ s t : State, step s = .next t ∧ s.loaded = true ∧ s.pending.head? ≠ some .reset) ∧
    (∃ s t : State, step s = .next t ∧ s.halted = false ∧ s.pending.head? = some .cycle) ∧
    ∃ s t : State, step s = .next t ∧ s.loaded = false ∧ t.loaded = true ∧ s.pending.head? = some (.load [0xAA]) :=
  ⟨⟨{ State.reset with loaded := true }, _, rfl, rfl, by decide⟩,
    ⟨{ State.reset with pending := [.cycle] }, _, rfl, rfl, rfl⟩,
    { State.reset with pending := [.load [0xAA]] }, _, rfl, rfl, rfl, rfl⟩

theorem witness_setKey :
    ∃ (s t : State) (k : BitVec 16), step s = .next t ∧ s.pending.head? = some (.setKey k) ∧ t.key ≠ s.key :=
  ⟨{ State.reset with pending := [.setKey 0x8001] }, _, 0x8001, rfl, rfl, by decide⟩

theorem witness_placedWord :
    MemoryOk State.reset ∧ MemoryOk { State.reset with pc := 0xFFFF, halted := true } :=
  by decide

/-- The frames: an instruction that answers a next state, a register it may not write and bytes at the edges of its block. -/
theorem witness_frames :
    ∃ s t : State, exec (.ldB 5) s = .next t ∧ MemoryOk s ∧ mayWriteV (.ldB 5) 15 = false ∧
      ¬ storesTo (.ldB 5) s 0x2FF ∧ ¬ storesTo (.ldB 5) s 0x303 ∧ storesTo (.ldB 5) s 0x302 :=
  ⟨withI 0x300 5 156 [], _, rfl, by decide, by decide, by decide, by decide, by decide⟩

/-- The frames hold of a fault too. -/
theorem witness_frames_fault :
    ∃ s t : State, exec .ret s = .next t ∧ t.halted = true :=
  ⟨State.reset, _, rfl, rfl⟩

theorem witness_frames_next :
    ∃ s t : State, exec (.seImm 0 0) s = .next t ∧ t.halted = false :=
  ⟨State.reset, _, rfl, rfl⟩

theorem witness_invariants :
    ∃ s t : State, MemoryOk s ∧ ControlOk s ∧ StatusOk s ∧ step s = .next t ∧ s.pc.toNat = 0x0FFE ∧ s.mem ≠ [] :=
  ⟨{ State.reset with pc := 0xFFE }.withFetchWord 16 0x3000, _, by decide, by decide, by decide, rfl, by decide, by decide⟩

/-- The bounds of 10 R27 themselves. -/
theorem witness_invariants_edge :
    ∃ s t : State, ControlOk s ∧ s.pc.toNat = 0x10FE ∧ s.stack[(0 : Reg)] = 0x1000 ∧ s.sp.val = 1 ∧ step s = .next t :=
  ⟨{ State.reset with pc := 0x10FE, sp := 1, stack := State.reset.stack.set 0 0x1000 }, _, by decide, rfl, rfl, rfl, rfl⟩

end Sys2Proof.Tests
end

/-!
PROOFS. The state record (spec/10_state.md): which fields an instruction, a Cycle and a step may change, the values they
may take, and the bounds of PC and the stack.
-/

namespace Sys2Proof.Machine

variable {i : Instr} {s t : State} {op : Word}

/-! ### What an instruction may write -/

/-- The fields an instruction's own effect may write (10 R20 to R38): every other field of `t` is that of `s`. -/
def WritesOnly (i : Instr) (s t : State) : Prop :=
  match i with
  | .cls => t = { s with fb := t.fb }
  | .ret => t = { s with sp := t.sp, pc := t.pc }
  | .call _ => t = { s with stack := t.stack, sp := t.sp, pc := t.pc }
  | .jp _ | .jpV0 _ | .seImm _ _ | .sneImm _ _ | .seReg _ _ | .sneReg _ _ | .skp _ | .sknp _ => t = { s with pc := t.pc }
  | .ldVxK _ => t = { s with v := t.v, pc := t.pc }
  | .rnd _ _ => t = { s with v := t.v, draws := t.draws }
  | .drw _ _ _ => t = { s with v := t.v, fb := t.fb }
  | .ldI _ | .addI _ | .ldF _ => t = { s with i := t.i }
  | .ldB _ | .stRegs _ => t = { s with mem := t.mem }
  | .ldDtVx _ => t = { s with dt := t.dt }
  | .ldStVx _ => t = { s with st := t.st }
  | .nop _ => t = s
  | _ => t = { s with v := t.v }

/-- A skip changes only PC. -/
theorem skipIf_frame (s : State) (b : Bool) : skipIf s b = { s with pc := (skipIf s b).pc } := by
  cases b <;> rfl

/-- The frame of every executor. Once the instruction is known `WritesOnly` unfolds to an equation of states, so `congrArg`
gives each field that the instruction does not write. -/
theorem exec_frame (h : exec i s = .next t) : (∃ c n, c ≠ .none ∧ t = raiseFault s c n) ∨ WritesOnly i s t := by
  obtain hf | he := exec_cases i s t h
  · exact .inl hf
  right
  cases i with
  | ret | call => obtain ⟨_, rfl⟩ := he; rfl
  | seImm | sneImm | seReg | sneReg => exact he ▸ skipIf_frame _ _
  | skp | sknp => exact he.2 ▸ skipIf_frame _ _
  | ldVxK => obtain ⟨_, -, rfl⟩ | ⟨-, rfl⟩ := he <;> rfl
  | ldB | stRegs => exact he ▸ writeBytes_eq _ _ _
  | ldRegs => exact he ▸ loadRegs_eq _ _
  | drw => obtain ⟨_, -, -, rfl⟩ := he; rfl
  | _ => exact he ▸ rfl

theorem exec_keeps_stack_sp (h : exec i s = .next t) :
    ((∀ nnn, i ≠ .call nnn) → t.stack = s.stack) ∧ ((∀ nnn, i ≠ .call nnn) → i ≠ .ret → t.sp = s.sp) := by
  obtain ⟨_, _, -, rfl⟩ | hw := exec_frame h
  · exact ⟨fun _ => rfl, fun _ _ => rfl⟩
  cases i with
  | call nnn => exact ⟨fun hi => absurd rfl (hi nnn), fun hi => absurd rfl (hi nnn)⟩
  | ret => exact ⟨fun _ => (congrArg State.stack hw :), fun _ hi => absurd rfl hi⟩
  | _ => exact ⟨fun _ => (congrArg State.stack hw :), fun _ _ => (congrArg State.sp hw :)⟩

theorem exec_keeps_fb (h : exec i s = .next t) (hcls : i ≠ .cls) (hdrw : ∀ x y n, i ≠ .drw x y n) : t.fb = s.fb := by
  obtain ⟨_, _, -, rfl⟩ | hw := exec_frame h
  · rfl
  cases i with
  | cls => exact absurd rfl hcls
  | drw x y n => exact absurd rfl (hdrw x y n)
  | _ => exact (congrArg State.fb hw :)

theorem exec_keeps_timers_draws (h : exec i s = .next t) :
    ((∀ x, i ≠ .ldDtVx x) → t.dt = s.dt) ∧ ((∀ x, i ≠ .ldStVx x) → t.st = s.st) ∧
      ((∀ x kk, i ≠ .rnd x kk) → t.draws = s.draws) := by
  obtain ⟨_, _, -, rfl⟩ | hw := exec_frame h
  · exact ⟨fun _ => rfl, fun _ => rfl, fun _ => rfl⟩
  cases i with
  | ldDtVx x =>
    exact ⟨fun hi => absurd rfl (hi x), fun _ => (congrArg State.st hw :), fun _ => (congrArg State.draws hw :)⟩
  | ldStVx x =>
    exact ⟨fun _ => (congrArg State.dt hw :), fun hi => absurd rfl (hi x), fun _ => (congrArg State.draws hw :)⟩
  | rnd x kk =>
    exact ⟨fun _ => (congrArg State.dt hw :), fun _ => (congrArg State.st hw :), fun hi => absurd rfl (hi x kk)⟩
  | _ =>
    exact ⟨fun _ => (congrArg State.dt hw :), fun _ => (congrArg State.st hw :),
      fun _ => (congrArg State.draws hw :)⟩

/-- No executor writes the host's fields, OPCODE or the load status. -/
theorem exec_keeps_status (h : exec i s = .next t) :
    t.key = s.key ∧ t.opcode = s.opcode ∧ t.loaded = s.loaded ∧ t.loadStatus = s.loadStatus ∧ t.params = s.params ∧
      t.pending = s.pending := by
  obtain ⟨_, _, -, rfl⟩ | hw := exec_frame h
  · exact ⟨rfl, rfl, rfl, rfl, rfl, rfl⟩
  · cases i <;> exact ⟨(congrArg State.key hw :), (congrArg State.opcode hw :), (congrArg State.loaded hw :),
      (congrArg State.loadStatus hw :), (congrArg State.params hw :), (congrArg State.pending hw :)⟩

theorem exec_keeps_faultRecord (h : exec i s = .next t) (ht : t.halted = false) :
    t.faultCause = s.faultCause ∧ t.faultPc = s.faultPc ∧ t.faultOpcode = s.faultOpcode ∧
      t.faultAddr = s.faultAddr := by
  obtain ⟨_, _, -, rfl⟩ | hw := exec_frame h
  · cases ht
  · cases i <;> exact ⟨(congrArg State.faultCause hw :), (congrArg State.faultPc hw :),
      (congrArg State.faultOpcode hw :), (congrArg State.faultAddr hw :)⟩

/-! ### V -/

theorem getV_setV_ne {x r : Reg} {b : Byte} (h : (r == x) = false) : getV (setV s x b) r = getV s r := by
  rw [getV_setV, if_neg fun hx => by simp [hx] at h]

theorem getV_setFlagged_ne {x r : Reg} {b : Byte} {f : Bool} (h : (r == x || r == 15) = false) :
    getV (setFlagged s x b f) r = getV s r := by
  obtain ⟨hx, hf⟩ := Bool.or_eq_false_iff.1 h
  exact (getV_setV_ne hx).trans (getV_setV_ne hf)

theorem getV_loadRegs_above {x r : Reg} (h : decide (r ≤ x) = false) :
    getV (loadRegs s (x.val + 1)) r = getV s r := by
  rw [getV_loadRegs s _ (by omega), if_neg fun hr => of_decide_eq_false h (Nat.le_of_lt_succ hr)]

/-- A register keeps its value in every instruction that is not listed as writing it (10 R20, R21). -/
theorem exec_keeps_v (h : exec i s = .next t) {r : Reg} (hr : mayWriteV i r = false) : getV t r = getV s r := by
  obtain ⟨_, _, -, rfl⟩ | hw := exec_frame h
  · rfl
  obtain ⟨_, _, -, rfl⟩ | he := exec_cases i s t h
  · rfl
  cases i with
  | ldImm | addImm | ldReg | or | and | xor | ldVxDt | rnd => exact he ▸ getV_setV_ne hr
  | add | sub | shr | subn | shl => exact he ▸ getV_setFlagged_ne hr
  | ldRegs => exact he ▸ getV_loadRegs_above hr
  | drw => obtain ⟨_, -, -, rfl⟩ := he; exact getV_setV_ne hr
  | ldVxK =>
    obtain ⟨_, -, rfl⟩ | ⟨-, rfl⟩ := he
    · exact getV_setV_ne hr
    · rfl
  | _ => exact (congrArg (getV · r) hw :)

theorem setFlagged_v_same (s : State) (x : Reg) (b : Byte) (f : Bool) : (setFlagged s x b f).v[x] = b :=
  (getV_setFlagged x x b f).trans (if_pos rfl)

theorem toNat_sub_byte (a b : Byte) : (a - b).toNat = (a.toNat + 256 - b.toNat) % 256 := by
  bv_omega

/-! ### I -/

theorem zext16_eq (nnn : BitVec 12) : zext16 nnn = target nnn 0 := by
  rw [zext16, target]; bv_omega

theorem add_setWidth_eq (a : Word) (b : Byte) : a + b.setWidth 16 = BitVec.ofNat 16 (a.toNat + b.toNat) := by
  bv_omega

/-- The three setters of I (10 R28) never fault; every other executor keeps I, a fault among its answers or not. -/
theorem exec_i (h : exec i s = .next t) : t.i = indexAfter i s := by
  cases i with
  | ldI => obtain rfl := Host.Outcome.next.inj h; exact zext16_eq _
  | addI => obtain rfl := Host.Outcome.next.inj h; exact add_setWidth_eq _ _
  | ldF => obtain rfl := Host.Outcome.next.inj h; rfl
  | _ =>
    obtain ⟨_, _, -, rfl⟩ | hw := exec_frame h
    · rfl
    · exact (congrArg State.i hw :)

/-! ### PC -/

theorem zext16_add_eq (nnn : BitVec 12) (b : Byte) : zext16 nnn + b.setWidth 16 = target nnn b.toNat := by
  rw [zext16, target]; bv_omega

theorem lowestKey_eq_none_iff : lowestKey s = none ↔ s.key = 0 := by
  rw [lowestKey_none]
  refine ⟨fun h => BitVec.eq_of_getLsbD_eq fun k hk => ?_, fun h k _ => ?_⟩
  · simpa [keyHeld] using h k hk
  · simp [keyHeld, h]

theorem skipIf_fetched_pc (b : Bool) : (skipIf (Fetched s op) b).pc = if b then s.pc + 4 else s.pc + 2 := by
  cases b
  · rfl
  · exact BitVec.add_assoc _ _ _

theorem popPc_pc_eq (h : 0 < s.sp.val) : (popPc s h).pc = s.stack[Fin.ofNat 16 (s.sp.val - 1)] := by
  have hlt : s.sp.val - 1 < 16 := by omega
  simp [Nat.mod_eq_of_lt hlt]

/-- An executor run after the fetch faults, or leaves PC at the end its Cycle has (10 R25); RET then found a slot. -/
theorem exec_fetched_pc (h : exec i (Fetched s op) = .next t) :
    (∃ c n, c ≠ .none ∧ t = raiseFault (Fetched s op) c n) ∨
      (t.pc = pcAfter i s ∧ (i = .ret → 0 < s.sp.val)) := by
  obtain hf | hw := exec_frame h
  · exact .inl hf
  obtain hf | he := exec_cases i _ t h
  · exact .inl hf
  right
  cases i with
  | ret =>
    obtain ⟨hsp, rfl⟩ := he
    exact ⟨popPc_pc_eq hsp, fun _ => hsp⟩
  | jp => exact ⟨he ▸ zext16_eq _, nofun⟩
  | call => obtain ⟨_, rfl⟩ := he; exact ⟨zext16_eq _, nofun⟩
  | jpV0 => exact ⟨he ▸ zext16_add_eq _ _, nofun⟩
  | seImm | seReg => exact ⟨he ▸ (skipIf_fetched_pc _).trans (if_congr beq_iff_eq rfl rfl), nofun⟩
  | sneImm | sneReg => exact ⟨he ▸ (skipIf_fetched_pc _).trans (if_congr bne_iff_ne rfl rfl), nofun⟩
  | skp | sknp => exact ⟨he.2 ▸ (skipIf_fetched_pc _).trans (if_congr beq_iff_eq rfl rfl), nofun⟩
  | ldVxK =>
    refine ⟨?_, nofun⟩
    obtain ⟨_, hk, rfl⟩ | ⟨hk, rfl⟩ := he
    · have hkey : s.key ≠ 0 := fun h0 => nomatch hk.symm.trans (lowestKey_eq_none_iff.2 h0)
      exact (if_neg hkey).symm
    · have hkey : s.key = 0 := lowestKey_eq_none_iff.1 hk
      exact (BitVec.add_sub_cancel _ _).trans (if_pos hkey).symm
  | _ => exact ⟨(congrArg State.pc hw :), nofun⟩

/-! ### The Cycle and the load -/

/-- A Cycle that fetches ends as its executor, run on the state after the fetch, says. -/
theorem cycle_of_fetches (hf : Fetches s) (h : cycle s = .next t) :
    ∃ u, exec (decodeWord (fetchWord s)) (Fetched s (fetchWord s)) = .next u ∧ t = finishCycle (beginCycle s) u := by
  obtain ⟨hs, hpc⟩ := hf
  obtain ⟨hh, -⟩ | ⟨-, hp, -⟩ | ⟨-, -, hu⟩ := cycle_cases h
  · exact nomatch hs.symm.trans hh
  · exact absurd hpc (Nat.not_le.2 hp)
  · exact hu

/-- The end of a Cycle changes only OPCODE and the timers. -/
theorem finishCycle_frame (s t : State) :
    finishCycle s t =
      { t with opcode := (finishCycle s t).opcode, dt := (finishCycle s t).dt, st := (finishCycle s t).st } := by
  unfold finishCycle
  split <;> rfl

/-- A Cycle keeps KEY and the arguments of the model. -/
theorem cycle_keeps_key_params (h : cycle s = .next t) : t.key = s.key ∧ t.params = s.params := by
  obtain ⟨-, rfl⟩ | ⟨-, -, rfl⟩ | ⟨-, -, u, hu, rfl⟩ := cycle_cases h
  · exact ⟨rfl, rfl⟩
  · exact ⟨rfl, rfl⟩
  · obtain ⟨hkey, -, -, -, hparams, -⟩ := exec_keeps_status hu
    rw [finishCycle_frame]
    exact ⟨hkey, hparams⟩

/-- A Cycle keeps LOADED = 1, and one that begins not halted sets it (10 R37). -/
theorem cycle_loaded (h : cycle s = .next t) :
    (s.loaded = true → t.loaded = true) ∧ (s.halted = false → t.loaded = true) := by
  obtain ⟨hh, rfl⟩ | ⟨-, -, rfl⟩ | ⟨-, -, u, hu, rfl⟩ := cycle_cases h
  · exact ⟨id, fun hs => nomatch hs.symm.trans hh⟩
  · exact ⟨fun _ => rfl, fun _ => rfl⟩
  · obtain ⟨-, -, hloaded, -⟩ := exec_keeps_status hu
    rw [finishCycle_frame]
    exact ⟨fun _ => hloaded, fun _ => hloaded⟩

/-- A load changes only memory and the load status. -/
theorem loadRom_frame (s : State) (bytes : List Byte) :
    loadRom s bytes =
      { s with
        mem := (loadRom s bytes).mem
        loaded := (loadRom s bytes).loaded
        loadStatus := (loadRom s bytes).loadStatus } := by
  obtain ⟨-, hl⟩ | ⟨-, -, hl⟩ | ⟨-, -, hl⟩ := loadRom_cases s bytes <;> rw [hl]

/-- A load keeps LOADED = 1, and one that sets it ended OK (20 R57, R58). -/
theorem loadRom_loaded (s : State) (bytes : List Byte) :
    (s.loaded = true → (loadRom s bytes).loaded = true) ∧
      (s.loaded = false → (loadRom s bytes).loaded = true → (loadRom s bytes).loadStatus = .ok) := by
  obtain ⟨hs, hl⟩ | ⟨hs, -, hl⟩ | ⟨hs, -, hl⟩ := loadRom_cases s bytes <;> simp [hl, hs]

/-! ### The bounds of PC and the stack (10 R27) -/

theorem pc_add_le (h : s.pc.toNat ≤ 0x0FFE) : (s.pc + 2).toNat ≤ 0x1000 ∧ (s.pc + 4).toNat ≤ 0x1002 := by
  bv_omega

/-- The highest target is 0xFFF + 0xFF. -/
theorem target_le (nnn : BitVec 12) (b : Byte) : (target nnn b.toNat).toNat ≤ 0x10FE := by
  rw [target]; bv_omega

theorem ite_toNat_le {p : Prop} [Decidable p] {a b : Word} {n : Nat} (ha : a.toNat ≤ n) (hb : b.toNat ≤ n) :
    (if p then a else b).toNat ≤ n := by
  split <;> assumption

theorem pcAfter_le (hs : ControlOk s) (hf : s.pc.toNat ≤ 0x0FFE) (hret : i = .ret → 0 < s.sp.val) :
    (pcAfter i s).toNat ≤ 0x10FE := by
  obtain ⟨h2, h4⟩ := pc_add_le hf
  cases i with
  | jp nnn | call nnn => exact target_le nnn 0
  | jpV0 nnn => exact target_le nnn s.v[(0 : Reg)]
  | ret =>
    have hsp := hret rfl
    have hj : (Fin.ofNat 16 (s.sp.val - 1)).val < s.sp.val := by rw [Fin.val_ofNat]; omega
    exact (hs.2 _ hj).trans (by decide)
  | seImm | sneImm | seReg | sneReg | skp | sknp =>
    exact ite_toNat_le (h4.trans (by decide)) (h2.trans (by decide))
  | ldVxK => exact ite_toNat_le hs.1 (h2.trans (by decide))
  | _ => exact h2.trans (by decide)

/-- Every occupied slot of the stack is at most 0x1000: the second part of `ControlOk`. -/
def StackOk (s : State) : Prop := ∀ j : Fin 16, j.val < s.sp.val → s.stack[j].toNat ≤ 0x1000

theorem pushPc_stackOk (hsp : s.sp.val < 16) (hpc : s.pc.toNat ≤ 0x1000) (hs : StackOk s) :
    StackOk (pushPc s hsp) := by
  intro j hj
  simp only [pushPc_sp] at hj
  simp only [pushPc_stack, Fin.getElem_fin, Vector.getElem_set]
  split
  · exact hpc
  · exact hs j (by omega)

theorem popPc_stackOk (hsp : 0 < s.sp.val) (hs : StackOk s) : StackOk (popPc s hsp) :=
  fun j hj => hs j (Nat.lt_of_lt_of_le hj (Nat.sub_le _ _))

theorem exec_stackOk (hpc : s.pc.toNat ≤ 0x1000) (hs : StackOk s) (h : exec i s = .next t) : StackOk t := by
  obtain ⟨_, _, -, rfl⟩ | he := exec_cases i s t h
  · exact hs
  cases i with
  | call => obtain ⟨hsp, rfl⟩ := he; exact pushPc_stackOk hsp hpc hs
  | ret => obtain ⟨hsp, rfl⟩ := he; exact popPc_stackOk hsp hs
  | _ =>
    obtain ⟨hstack, hsp⟩ := exec_keeps_stack_sp h
    rw [StackOk, hstack nofun, hsp nofun nofun]
    exact hs

/-- A Cycle keeps the bounds: a fault puts PC back to the fetch address, and every other end of PC is within them. -/
theorem cycle_controlOk (hs : ControlOk s) (h : cycle s = .next t) : ControlOk t := by
  obtain ⟨-, rfl⟩ | ⟨-, -, rfl⟩ | ⟨-, hf, u, hu, rfl⟩ := cycle_cases h
  · exact hs
  · exact hs
  · have hfetched : (Fetched s (fetchWord s)).pc.toNat ≤ 0x1000 := (pc_add_le hf).1
    rw [finishCycle_frame]
    refine ⟨?_, exec_stackOk (t := u) hfetched hs.2 hu⟩
    obtain ⟨_, _, -, rfl⟩ | ⟨hpc, hret⟩ := exec_fetched_pc hu
    · exact (congrArg BitVec.toNat (BitVec.add_sub_cancel s.pc 2)).trans_le hs.1
    · exact hpc ▸ pcAfter_le hs hf hret

theorem hostReset_controlOk (s : State) : ControlOk (hostReset s) := ⟨(by decide : 0x200 ≤ 0x10FE), nofun⟩

theorem loadRom_controlOk (hs : ControlOk s) (bytes : List Byte) : ControlOk (loadRom s bytes) := by
  rw [loadRom_frame]
  exact hs

/-! ### Reset -/

/-- Memory that lists no byte reads as its reset contents (10 R41, 20 R55). -/
theorem Memory.read_nil (p : Params) (a : Nat) :
    Memory.read p [] a =
      if p.fontBase.val ≤ a ∧ a < p.fontBase.val + 80
      then p.fontData.toList.getD (a - p.fontBase.val) 0 else 0 := by
  simp only [Memory.read, Memory.lookup, Option.getD_none, Memory.unlisted]
  split
  · next h =>
    have hlt : a - p.fontBase.val < fontSize := by omega
    simp [List.getD, hlt]
  · rfl

theorem getElem_replicate_zero {n w : Nat} (j : Fin n) : (Vector.replicate n (0 : BitVec w))[j] = 0 := by
  simp

end Sys2Proof.Machine

namespace Sys2Proof.Proofs

open Sys2Proof.Machine

/-- Settles O54: a Cycle, a reset and a load keep the bounds, and a write of KEY touches neither PC nor the stack. -/
theorem stepKeepsPcAndStackBounds : Obligations.StepKeepsPcAndStackBounds := by
  intro s t hs h
  obtain ⟨-, hc⟩ | ⟨act, rest, -, ⟨-, rfl⟩ | ⟨bytes, -, rfl⟩ | ⟨key, -, rfl⟩ | ⟨-, hc⟩⟩ := step_cases h
  · exact cycle_controlOk hs hc
  · exact hostReset_controlOk _
  · exact loadRom_controlOk (s := { s with pending := rest }) hs bytes
  · exact hs
  · exact cycle_controlOk (s := { s with pending := rest }) hs hc

/-- Settles O16: the tick leaves the PC of the executor, which did not fault. -/
theorem pcChangesOnlyInTheListedWays : Obligations.PcChangesOnlyInTheListedWays := by
  intro s t hf h ht
  obtain ⟨u, hu, rfl⟩ := cycle_of_fetches hf h
  rw [finishCycle_frame] at ht ⊢
  obtain ⟨_, _, -, rfl⟩ | ⟨hpc, -⟩ := exec_fetched_pc hu
  · cases ht
  · exact hpc

/-- Settles O42, by the action the step takes. -/
theorem loadedIsSetOnceAndClearedByReset : Obligations.LoadedIsSetOnceAndClearedByReset := by
  intro s t h
  obtain ⟨hp, hc⟩ | ⟨act, rest, hp, ⟨rfl, rfl⟩ | ⟨bytes, rfl, rfl⟩ | ⟨key, rfl, rfl⟩ | ⟨rfl, hc⟩⟩ := step_cases h <;>
    rw [hp]
  · obtain ⟨hkeep, hset⟩ := cycle_loaded hc
    exact ⟨fun hs _ => hkeep hs, fun hs _ => hset hs, fun _ _ => .inl rfl⟩
  · exact ⟨fun _ hr => absurd rfl hr, by simp, nofun⟩
  · obtain ⟨hkeep, hok⟩ := loadRom_loaded { s with pending := rest } bytes
    exact ⟨fun hs _ => hkeep hs, by simp, fun hs ht => .inr (.inr ⟨bytes, rfl, hok hs ht⟩)⟩
  · exact ⟨fun hs _ => hs, by simp, fun hs ht => nomatch hs.symm.trans ht⟩
  · obtain ⟨hkeep, hset⟩ := cycle_loaded hc
    exact ⟨fun hs _ => hkeep hs, fun hs _ => hset hs, fun _ _ => .inr (.inl rfl)⟩

/-- Settles O43, by the action the step takes. -/
theorem onlyTheHostWritesKey : Obligations.OnlyTheHostWritesKey := by
  intro s t h
  obtain ⟨hp, hc⟩ | ⟨act, rest, hp, ⟨rfl, rfl⟩ | ⟨bytes, rfl, rfl⟩ | ⟨key, rfl, rfl⟩ | ⟨rfl, hc⟩⟩ := step_cases h <;>
    rw [hp]
  · obtain ⟨hkey, hparams⟩ := cycle_keeps_key_params hc
    exact ⟨hparams, fun _ => hkey, nofun⟩
  · exact ⟨rfl, fun _ => rfl, nofun⟩
  · rw [loadRom_frame]
    exact ⟨rfl, fun _ => rfl, nofun⟩
  · refine ⟨rfl, fun hk => absurd rfl (hk key), fun k hk => ?_⟩
    cases hk
    rfl
  · obtain ⟨hkey, hparams⟩ := cycle_keeps_key_params hc
    exact ⟨hparams, fun _ => hkey, nofun⟩

/-- Settles O46. -/
theorem onlyListedInstructionsWriteV : Obligations.OnlyListedInstructionsWriteV :=
  fun _ _ _ _ h hr => exec_keeps_v h hr

/-- Settles O47. -/
theorem onlyThreeInstructionsSetI : Obligations.OnlyThreeInstructionsSetI :=
  fun _ _ _ h => exec_i h

/-- Settles O48. -/
theorem onlyCallAndRetTouchTheStack : Obligations.OnlyCallAndRetTouchTheStack :=
  fun _ _ _ h => exec_keeps_stack_sp h

/-- Settles O49. -/
theorem onlyClsAndDrwWriteTheFramebuffer : Obligations.OnlyClsAndDrwWriteTheFramebuffer :=
  fun _ _ _ h hcls hdrw => exec_keeps_fb h hcls hdrw

/-- Settles O51. -/
theorem statusIsNoInstructionsToWrite : Obligations.StatusIsNoInstructionsToWrite := by
  intro i s t h
  obtain ⟨hdt, hst, hdraws⟩ := exec_keeps_timers_draws h
  obtain ⟨hkey, hopcode, hloaded, hstatus, hparams, hpending⟩ := exec_keeps_status h
  exact ⟨hdt, hst, hkey, hopcode, hloaded, hstatus, hparams, hpending, hdraws, exec_keeps_faultRecord h⟩

/-- Settles O22: the destination of a flagged result holds the result, whichever register it is. -/
theorem resultOverwritesTheFlagInVf : Obligations.ResultOverwritesTheFlagInVf := by
  intro s y
  refine ⟨⟨_, rfl, ?add⟩, ⟨_, rfl, ?sub⟩, ⟨_, rfl, ?subn⟩, ⟨_, rfl, ?shr⟩, ⟨_, rfl, ?shl⟩⟩ <;>
    rw [setFlagged_v_same]
  case add => exact BitVec.toNat_add _ _
  case sub => exact toNat_sub_byte _ _
  case subn => exact toNat_sub_byte _ _
  case shr => rw [BitVec.toNat_ushiftRight, Nat.shiftRight_eq_div_pow]; rfl
  case shl => rw [BitVec.toNat_shiftLeft, Nat.shiftLeft_eq]; rfl

/-- Settles O39: the state after power-up is that of the command issued in it. -/
theorem resetLeavesTheResetState : Obligations.ResetLeavesTheResetState := by
  unfold Obligations.ResetLeavesTheResetState
  intro isReset
  have h (s : State) : isReset (hostReset s) :=
    ⟨fun a _ => Memory.read_nil s.params a, getElem_replicate_zero, rfl, rfl, rfl, getElem_replicate_zero, rfl, rfl,
      fun _ => BitVec.getLsbD_zero, rfl, rfl, rfl, rfl, rfl, rfl, rfl, rfl⟩
  exact ⟨h State.reset, fun s => ⟨_, rfl, h s, rfl, rfl⟩⟩

end Sys2Proof.Proofs

/-!
PROOFS. Memory (spec/20_memory.md): what the instructions, the loader and a step write, and what a fetch then reads.
-/

namespace Sys2Proof.Machine

variable {i : Instr} {s t : State} {vs : List Byte}

/-! ### The instructions that write memory (20 R51) -/

/-- Every executor but Fx33 and Fx55 keeps memory, a fault among its answers or not. -/
theorem exec_keeps_mem (h : exec i s = .next t) (hldB : ∀ x, i ≠ .ldB x) (hstRegs : ∀ x, i ≠ .stRegs x) :
    t.mem = s.mem := by
  obtain ⟨_, _, -, rfl⟩ | hw := exec_frame h
  · rfl
  cases i with
  | ldB x => exact absurd rfl (hldB x)
  | stRegs x => exact absurd rfl (hstRegs x)
  | _ => exact (congrArg State.mem hw :)

theorem exec_keeps_bytes (h : exec i s = .next t) (hldB : ∀ x, i ≠ .ldB x) (hstRegs : ∀ x, i ≠ .stRegs x) (a : Nat) :
    readByte t a = readByte s a := by
  obtain ⟨-, -, -, -, hparams, -⟩ := exec_keeps_status h
  exact readByte_congr (exec_keeps_mem h hldB hstRegs) hparams a

theorem writeBytes_params (s : State) (a : Nat) (vs : List Byte) : (writeBytes s a vs).params = s.params := by
  rw [writeBytes_eq]

/-- A store of a block through I faults, or its bytes stand from I on and every other byte is as before (20 R51,
43 R170, R171). -/
theorem withBlock_store_cases {c : FaultCause} (hs : MemoryOk s)
    (h : withBlock s c vs.length (writeBytes s (blockAddr s 0) vs) = .next t) :
    t = raiseFault s c (firstOor s) ∨
      ((∀ k (hk : k < vs.length), readByte t (s.i.toNat + k) = vs[k]) ∧
        ∀ a, a < s.i.toNat ∨ s.i.toNat + vs.length ≤ a → readByte t a = readByte s a) := by
  obtain ⟨-, rfl⟩ | ⟨hin, rfl⟩ := withBlock_next h
  · exact .inl rfl
  right
  cases vs with
  | nil => exact ⟨nofun, fun _ _ => rfl⟩
  | cons v vs =>
    have hend : s.i.toNat + (v :: vs).length ≤ memSize := by
      rw [List.length_cons] at hin ⊢
      omega
    exact ⟨readByte_writeBytes_inside _ hs hend, fun _ => readByte_writeBytes_outside _ hs hend⟩

/-- FX55_BOUND never asks for more than the 16 registers. -/
theorem storeCount_le (s : State) (x : Reg) : storeCount s x ≤ 16 := by
  unfold storeCount
  split <;> omega

theorem length_storedRegs (s : State) (x : Reg) : (s.v.toList.take (storeCount s x)).length = storeCount s x := by
  simpa using storeCount_le s x

/-- The block of Fx55 is as long as the list of registers it stores (43 R176). -/
theorem exec_stRegs_eq (x : Reg) (s : State) :
    exec (.stRegs x) s = withBlock s .memWriteOor (s.v.toList.take (storeCount s x)).length
      (writeBytes s (blockAddr s 0) (s.v.toList.take (storeCount s x))) := by
  rw [length_storedRegs]
  rfl

/-- Fx33 faults, or stores the three digits from I on (43 R175). -/
theorem exec_ldB_cases {x : Reg} (hs : MemoryOk s) (h : exec (.ldB x) s = .next t) :
    t = raiseFault s .memWriteOor (firstOor s) ∨
      ((∀ k (hk : k < 3), readByte t (s.i.toNat + k) = (bcdDigits (getV s x))[k]) ∧
        ∀ a, a < s.i.toNat ∨ s.i.toNat + 3 ≤ a → readByte t a = readByte s a) :=
  withBlock_store_cases (vs := bcdDigits (getV s x)) hs h

/-- Fx55 faults, or stores the first registers from I on (43 R176). -/
theorem exec_stRegs_cases {x : Reg} (hs : MemoryOk s) (h : exec (.stRegs x) s = .next t) :
    t = raiseFault s .memWriteOor (firstOor s) ∨
      ((∀ r : Reg, r.val < storeCount s x → readByte t (s.i.toNat + r.val) = s.v[r]) ∧
        ∀ a, a < s.i.toNat ∨ s.i.toNat + storeCount s x ≤ a → readByte t a = readByte s a) := by
  have hlen := length_storedRegs s x
  rw [exec_stRegs_eq] at h
  obtain hf | ⟨hin, hout⟩ := withBlock_store_cases hs h
  · exact .inl hf
  · refine .inr ⟨fun r hr => ?_, hlen ▸ hout⟩
    rw [hin r.val (hlen.symm ▸ hr)]
    simp

/-- An executor leaves every byte outside the addresses it stores to (20 R51). -/
theorem exec_keeps_byte_outside {a : Nat} (hs : MemoryOk s) (h : exec i s = .next t) (ha : ¬ storesTo i s a) :
    readByte t a = readByte s a := by
  cases i with
  | ldB x =>
    obtain rfl | ⟨-, hout⟩ := exec_ldB_cases hs h
    · rfl
    · exact hout a (by simp only [storesTo, blockAddr] at ha; omega)
  | stRegs x =>
    obtain rfl | ⟨-, hout⟩ := exec_stRegs_cases hs h
    · rfl
    · exact hout a (by simp only [storesTo, blockAddr] at ha; omega)
  | _ => exact exec_keeps_bytes h nofun nofun a

/-! ### The canonical form of memory -/

theorem exec_memoryOk (hs : MemoryOk s) (h : exec i s = .next t) : MemoryOk t := by
  obtain ⟨_, _, -, rfl⟩ | he := exec_cases i s t h
  · exact hs
  cases i with
  | ldB | stRegs => exact he ▸ writeBytes_memoryOk _ hs
  | _ =>
    obtain ⟨-, -, -, -, hparams, -⟩ := exec_keeps_status h
    rw [MemoryOk, hparams, exec_keeps_mem h nofun nofun]
    exact hs

theorem cycle_memoryOk (hs : MemoryOk s) (h : cycle s = .next t) : MemoryOk t := by
  obtain ⟨-, rfl⟩ | ⟨-, -, rfl⟩ | ⟨-, -, u, hu, rfl⟩ := cycle_cases h
  · exact hs
  · exact hs
  · rw [finishCycle_frame]
    exact exec_memoryOk (s := afterFetch (beginCycle s)) (t := u) hs hu

theorem loadRom_memoryOk (hs : MemoryOk s) (bytes : List Byte) : MemoryOk (loadRom s bytes) := by
  obtain ⟨-, hl⟩ | ⟨-, -, hl⟩ | ⟨-, -, hl⟩ := loadRom_cases s bytes <;> rw [hl]
  · exact hs
  · exact hs
  · have hw := writeBytes_memoryOk (a := progOrigin) bytes hs
    rwa [MemoryOk, writeBytes_params] at hw

/-- Reset memory lists no byte (10 R41). -/
theorem hostReset_memoryOk (s : State) : MemoryOk (hostReset s) := rfl

/-! ### The loader (20 R57, R58) -/

theorem loadRom_of_loaded {bytes : List Byte} (h : s.loaded = true) : loadRom s bytes = s := if_pos h

theorem loadRom_tooLarge {bytes : List Byte} (h : s.loaded = false) (hlen : maxRom < bytes.length) :
    loadRom s bytes = { s with loadStatus := .tooLarge } := by
  rw [loadRom, h, if_neg Bool.false_ne_true, if_pos hlen]

theorem loadRom_ok {bytes : List Byte} (h : s.loaded = false) (hlen : bytes.length ≤ maxRom) :
    loadRom s bytes = { writeBytes s progOrigin bytes with loaded := true, loadStatus := .ok } := by
  rw [loadRom, h, if_neg Bool.false_ne_true, if_neg (Nat.not_lt.2 hlen)]

/-! ### The fetch (20 R53, R62) -/

theorem wordOfBytes_highByte_lowByte (op : Word) : wordOfBytes (highByte op) (lowByte op) = op := by
  rw [wordOfBytes, highByte, lowByte, BitVec.extractLsb'_append_extractLsb'_eq_extractLsb' (by decide)]
  exact BitVec.extractLsb'_eq_self

/-- Whether the next step fetches does not depend on memory. -/
theorem writeBytes_ready (a : Nat) (h : Ready s) : Ready (writeBytes s a vs) := by
  rw [writeBytes_eq]
  exact h

/-- Two bytes written at PC are the word the fetch reads, the lower address in the high byte (20 R53). -/
theorem fetchWord_writeBytes {hi lo : Byte} (hs : MemoryOk s) (hpc : s.pc.toNat ≤ lastFetch) :
    fetchWord (writeBytes s s.pc.toNat [hi, lo]) = wordOfBytes hi lo := by
  have hend : s.pc.toNat + [hi, lo].length ≤ memSize := Nat.add_le_add_right hpc 2
  have hkeep : (writeBytes s s.pc.toNat [hi, lo]).pc = s.pc := by rw [writeBytes_eq]
  rw [fetchWord, hkeep]
  exact congrArg₂ wordOfBytes (readByte_writeBytes_inside _ hs hend 0 Nat.two_pos)
    (readByte_writeBytes_inside _ hs hend 1 Nat.one_lt_two)

/-- A word is placed by writing its two bytes at an address a fetch can start at, with no action pending (log 6). -/
theorem placeWord_eq (s : State) (op : Word) :
    ∃ pc : Word, pc.toNat ≤ lastFetch ∧ placeWord s op =
      writeBytes { s with pc := pc, halted := false, pending := [] } pc.toNat [highByte op, lowByte op] := by
  refine ⟨_, ?_, rfl⟩
  split
  · decide
  · next h => exact Nat.not_lt.1 h

theorem placeWord_ready (s : State) (op : Word) : Ready (placeWord s op) := by
  obtain ⟨pc, hpc, hplace⟩ := placeWord_eq s op
  rw [hplace]
  exact writeBytes_ready _ ⟨rfl, rfl, hpc⟩

theorem fetchWord_placeWord (hs : MemoryOk s) (op : Word) : fetchWord (placeWord s op) = op := by
  obtain ⟨pc, hpc, hplace⟩ := placeWord_eq s op
  rw [hplace, fetchWord_writeBytes (s := { s with pc := pc, halted := false, pending := [] }) hs hpc,
    wordOfBytes_highByte_lowByte]

end Sys2Proof.Machine

namespace Sys2Proof.Proofs

open Sys2Proof.Machine

/-- Settles O53, by the action the step takes: only a Cycle and a load write memory, and reset lists no byte. -/
theorem stepKeepsMemoryCanonical : Obligations.StepKeepsMemoryCanonical := by
  intro s t hs h
  obtain ⟨-, hc⟩ | ⟨act, rest, -, ⟨-, rfl⟩ | ⟨bytes, -, rfl⟩ | ⟨key, -, rfl⟩ | ⟨-, hc⟩⟩ := step_cases h
  · exact cycle_memoryOk hs hc
  · exact hostReset_memoryOk _
  · exact loadRom_memoryOk (s := { s with pending := rest }) hs bytes
  · exact hs
  · exact cycle_memoryOk (s := { s with pending := rest }) hs hc

/-- Settles O29: both bytes of the fetched word lie in the block. -/
theorem fetchSeesStoredBytes : Obligations.FetchSeesStoredBytes := by
  intro s t u x r r' hs _ h ht hr' hlt hmem hparams hpc
  obtain rfl | ⟨hin, -⟩ := exec_stRegs_cases hs h
  · cases ht
  have hfirst : readByte u (s.i.toNat + r.val) = s.v[r] := by
    rw [readByte_congr hmem hparams, hin r (by omega)]
  have hsecond : readByte u (s.i.toNat + r.val + 1) = s.v[r'] := by
    rw [readByte_congr hmem hparams, Nat.add_assoc, ← hr', hin r' hlt]
  rw [fetchWord, hpc, hfirst, hsecond]
  rfl

/-- Settles O40: the load is one write of consecutive bytes, which end inside memory. -/
theorem loadCopiesTheRom : Obligations.LoadCopiesTheRom := by
  intro s bytes hs hloaded hlen
  have hend : progOrigin + bytes.length ≤ memSize := Nat.add_le_add_left hlen progOrigin
  refine ⟨loadRom s bytes, rfl, ?_⟩
  rw [loadRom_ok hloaded hlen]
  refine ⟨?frame, readByte_writeBytes_inside bytes hs hend, fun _ => readByte_writeBytes_outside bytes hs hend⟩
  case frame => rw [writeBytes_eq]

/-- Settles O45. -/
theorem placedWordIsTheOneFetched : Obligations.PlacedWordIsTheOneFetched := by
  intro s w hs
  refine ⟨placeWord_ready s _, ?_⟩
  rw [State.withFetchWord, fetchWord_placeWord hs, BitVec.toNat_ofNat]
  exact Nat.mod_mod _ _

/-- Settles O50. -/
theorem onlyTheStoresWriteMemory : Obligations.OnlyTheStoresWriteMemory :=
  fun _ _ _ _ hs h ha => exec_keeps_byte_outside hs h ha

/-- Settles O25: the glyphs are read off the defaults, and memory that lists no byte reads 0 outside the font. -/
theorem defaultFontStandsInResetMemory : Obligations.DefaultFontStandsInResetMemory := by
  refine ⟨by decide, fun a ha => ?_⟩
  have hout : ¬ (defaultParams.fontBase.val ≤ a ∧ a < defaultParams.fontBase.val + 80) := by
    rw [show defaultParams.fontBase.val = 0x050 from rfl]
    omega
  exact (Memory.read_nil defaultParams a).trans (if_neg hout)

/-- Settles O41. -/
theorem loadIsRefused : Obligations.LoadIsRefused :=
  fun _ _ => ⟨fun h hlen => congrArg Host.Outcome.next (loadRom_tooLarge h hlen),
    fun h => congrArg Host.Outcome.next (loadRom_of_loaded h)⟩

end Sys2Proof.Proofs

/-!
PROOFS. Encoding (spec/30_encoding.md): what the dispatch tables answer, when they answer the no-op, what the encoder
makes of a decoded word, and that every step answers a next state.
-/

namespace Sys2Proof

variable {op w : Word} {p n : BitVec 4} {kk : Byte}

/-! ### The masks and shifts that extract a field (30 R71) -/

theorem toNat_and_lowMask (op : Word) {k : Nat} (hk : k ≤ 16) :
    (op &&& BitVec.ofNat 16 (2 ^ k - 1)).toNat = op.toNat % 2 ^ k := by
  have hlt : 2 ^ k - 1 < 2 ^ 16 := Nat.sub_one_lt_of_le (Nat.two_pow_pos k) (Nat.pow_le_pow_right Nat.two_pos hk)
  rw [BitVec.toNat_and, BitVec.toNat_ofNat, Nat.mod_eq_of_lt hlt, Nat.and_two_pow_sub_one_eq_mod]

theorem toNat_ushiftRight_div (op : Word) (k : Nat) : (op >>> k).toNat = op.toNat / 2 ^ k := by
  rw [BitVec.toNat_ushiftRight, Nat.shiftRight_eq_div_pow]

/-! ### A word is put together from its own fields (30 R72) -/

theorem wordPXYN_of_fields (hp : fieldP op = p) (hn : (fieldLow op).toNat = n.toNat) :
    wordPXYN p (fieldX op) (fieldY op) n = op := by
  apply BitVec.eq_of_toNat_eq
  rw [wordPXYN_toNat, ← hp, ← hn, fieldP_toNat, fieldX_val, fieldY_val, fieldLow_toNat]
  omega

theorem wordPXKK_of_fields (hp : fieldP op = p) (hkk : (fieldKK op).toNat = kk.toNat) :
    wordPXKK p (fieldX op) kk = op := by
  apply BitVec.eq_of_toNat_eq
  rw [wordPXKK_toNat, ← hp, ← hkk, fieldP_toNat, fieldX_val, fieldKK_toNat]
  omega

/-! ### The primary slots that hold a sub-table (30 R74) -/

theorem decodeWord_of_p0 (hp : fieldP op = 0x0#4) : decodeWord op = decodeTable0 op := by
  rw [decodeWord, hp]; rfl

theorem decodeWord_of_p8 (hp : fieldP op = 0x8#4) : decodeWord op = decodeTable8 op := by
  rw [decodeWord, hp]; rfl

theorem decodeWord_of_pE (hp : fieldP op = 0xE#4) : decodeWord op = decodeTableE op := by
  rw [decodeWord, hp]; rfl

theorem decodeWord_of_pF (hp : fieldP op = 0xF#4) : decodeWord op = decodeTableF op := by
  rw [decodeWord, hp]; rfl

/-! ### The words that select the no-op (30 R74, R75, R82)

A sub-table answers the no-op exactly outside its listed slots, and the no-op carries the decoded word itself. -/

theorem decodeTable0_eq_nop_iff (hp : fieldP op = 0x0#4) :
    decodeTable0 op = .nop w ↔ op = w ∧ isNopWord op = true := by
  rw [isNopWord, ← fieldP, ← fieldLow, hp, decodeTable0]
  split <;> simp_all [← BitVec.toNat_inj]

theorem decodeTable8_eq_nop_iff (hp : fieldP op = 0x8#4) :
    decodeTable8 op = .nop w ↔ op = w ∧ isNopWord op = true := by
  rw [isNopWord, ← fieldP, ← fieldLow, hp, decodeTable8]
  split <;> simp_all [← BitVec.toNat_inj]

theorem decodeTableE_eq_nop_iff (hp : fieldP op = 0xE#4) :
    decodeTableE op = .nop w ↔ op = w ∧ isNopWord op = true := by
  rw [isNopWord, ← fieldP, ← fieldLow, hp, decodeTableE]
  split <;> simp_all [← BitVec.toNat_inj]

theorem decodeTableF_eq_nop_iff (hp : fieldP op = 0xF#4) :
    decodeTableF op = .nop w ↔ op = w ∧ isNopWord op = true := by
  rw [isNopWord, ← fieldP, ← fieldKK, hp, decodeTableF]
  split <;> simp_all [← BitVec.toNat_inj]

theorem decodeWord_eq_nop_iff : decodeWord op = .nop w ↔ op = w ∧ isNopWord op = true := by
  unfold decodeWord
  split
  case h_1 hp => exact decodeTable0_eq_nop_iff (BitVec.eq_of_toNat_eq hp)
  case h_9 hp => exact decodeTable8_eq_nop_iff (BitVec.eq_of_toNat_eq hp)
  case h_15 hp => exact decodeTableE_eq_nop_iff (BitVec.eq_of_toNat_eq hp)
  case h_16 =>
    have hp : (fieldP op).toNat = 15 := by
      simp only [imp_false] at *
      omega
    exact decodeTableF_eq_nop_iff (BitVec.eq_of_toNat_eq hp)
  all_goals next hp => rw [isNopWord, ← fieldP, hp]; simp

/-! ### Encoding what was decoded (30 R75, R76, R81) -/

/-- Table8 ignores no bit: `y` is kept by SHR and SHL too. -/
theorem encode_decodeTable8 (hp : fieldP op = 0x8#4) : encode (decodeTable8 op) = op := by
  unfold decodeTable8
  split
  case h_10 => rfl
  all_goals next hn => exact wordPXYN_of_fields hp hn

/-- TableF ignores no bit. -/
theorem encode_decodeTableF (hp : fieldP op = 0xF#4) : encode (decodeTableF op) = op := by
  unfold decodeTableF
  split
  case h_10 => rfl
  all_goals next hkk => exact wordPXKK_of_fields hp hkk

theorem encode_decodeWord (hp : fieldP op = 0x8#4 ∨ fieldP op = 0xF#4) : encode (decodeWord op) = op := by
  obtain hp | hp := hp
  · rw [decodeWord_of_p8 hp, encode_decodeTable8 hp]
  · rw [decodeWord_of_pF hp, encode_decodeTableF hp]

theorem fieldP_encode_decodeTable0 (hp : fieldP op = 0x0#4) : fieldP (encode (decodeTable0 op)) = fieldP op := by
  unfold decodeTable0
  split
  case h_3 => rfl
  all_goals rw [hp]; rfl

theorem fieldP_encode_decodeTableE (hp : fieldP op = 0xE#4) : fieldP (encode (decodeTableE op)) = fieldP op := by
  unfold decodeTableE
  split
  case h_3 => rfl
  all_goals rw [hp]; exact fieldP_wordPXKK ..

/-- Whatever bits the decoder ignores, the canonical word of the answer stands in the same primary slot. -/
theorem fieldP_encode_decodeWord (op : Word) : fieldP (encode (decodeWord op)) = fieldP op := by
  unfold decodeWord
  split
  case h_1 hp => exact fieldP_encode_decodeTable0 (BitVec.eq_of_toNat_eq hp)
  case h_9 hp => exact congrArg fieldP (encode_decodeTable8 (BitVec.eq_of_toNat_eq hp))
  case h_15 hp => exact fieldP_encode_decodeTableE (BitVec.eq_of_toNat_eq hp)
  case h_16 =>
    have hp : (fieldP op).toNat = 15 := by
      simp only [imp_false] at *
      omega
    exact congrArg fieldP (encode_decodeTableF (BitVec.eq_of_toNat_eq hp))
  all_goals next hp => rw [← BitVec.toNat_inj, hp]; simp [encode]

/-! ### Decoding what was encoded (30 R81) -/

theorem decodeWord_encode {i : Instr} (h : i.wf = true) : decodeWord (encode i) = i := by
  cases i with
  | nop w => exact decodeWord_eq_nop_iff.2 ⟨rfl, h⟩
  | cls | ret => rfl
  | ldReg | or | and | xor | add | sub | shr | subn | shl => simp [encode, decodeWord_of_p8, decodeTable8]
  | skp | sknp => simp [encode, decodeWord_of_pE, decodeTableE]
  | ldVxDt | ldVxK | ldDtVx | ldStVx | addI | ldF | ldB | stRegs | ldRegs =>
    simp [encode, decodeWord_of_pF, decodeTableF]
  | _ => simp [encode, decodeWord]

end Sys2Proof

namespace Sys2Proof.Machine

/-! ### Every step answers a next state (30 R78, 40 R112, 60 R220) -/

theorem cycle_next (s : State) : ∃ t, cycle s = .next t := by
  unfold cycle
  split
  · exact ⟨_, rfl⟩
  split
  · exact ⟨_, rfl⟩
  · obtain ⟨u, hu⟩ := exec_next (decodeWord (fetchWord (beginCycle s))) (afterFetch (beginCycle s))
    exact ⟨_, by rw [executeAndFinish, hu]⟩

theorem hostAction_next (act : HostAction) (s : State) : ∃ t, hostAction act s = .next t := by
  cases act with
  | cycle => exact cycle_next s
  | _ => exact ⟨_, rfl⟩

end Sys2Proof.Machine

namespace Sys2Proof.Proofs

open Sys2Proof.Machine

/-- Settles O3: the two bytes are the encoded word again, and that word decodes to the instruction. -/
theorem decodeOfEncodeIsTheInstruction : Obligations.DecodeOfEncodeIsTheInstruction := by
  intro i h
  rw [encodeBytes, decode, wordOfBytes_highByte_lowByte, decodeWord_encode h]

/-- Settles O4: only a no-op can fail to be well-formed, and the decoder answers it for no-op words alone. -/
theorem everyWordDecodesToAWellFormedInstruction : Obligations.EveryWordDecodesToAWellFormedInstruction := by
  intro op
  cases h : decodeWord op with
  | nop w =>
    obtain ⟨rfl, hnop⟩ := decodeWord_eq_nop_iff.1 h
    exact hnop
  | _ => rfl

/-- Settles O5: the slots by the tables, and an 8 or F word by encoding the common answer back. -/
theorem ignoredBitsSelectNothing : Obligations.IgnoredBitsSelectNothing := by
  refine ⟨fun op hp hn => ?cls, fun op hp hn => ?ret, fun op hp h0 hE => ?nop, fun op hp hn => ?skp,
    fun op hp hn => ?sknp, fun op hp => ?seReg, fun op hp => ?sneReg, fun op op' hp h => ?injective⟩
  case cls => rw [decodeWord_of_p0 hp, decodeTable0, hn]; rfl
  case ret => rw [decodeWord_of_p0 hp, decodeTable0, hn]; rfl
  case nop =>
    have hnop : isNopWord op = true := by
      rw [isNopWord, ← fieldP, ← fieldLow, hp]
      simp [h0, hE]
    exact decodeWord_eq_nop_iff.2 ⟨rfl, hnop⟩
  case skp => rw [decodeWord_of_pE hp, decodeTableE, hn]; rfl
  case sknp => rw [decodeWord_of_pE hp, decodeTableE, hn]; rfl
  case seReg => rw [decodeWord, hp]; rfl
  case sneReg => rw [decodeWord, hp]; rfl
  case injective =>
    have hp' : fieldP op' = fieldP op := by
      rw [← fieldP_encode_decodeWord op', ← h, fieldP_encode_decodeWord]
    calc op = encode (decodeWord op) := (encode_decodeWord hp).symm
      _ = encode (decodeWord op') := by rw [h]
      _ = op' := encode_decodeWord (hp' ▸ hp)

/-- Settles O1: a shift divides, and a mask of low bits keeps the remainder. -/
theorem fieldsAreMaskedShiftsOfTheWord : Obligations.FieldsAreMaskedShiftsOfTheWord := by
  intro op
  have low4 (v : Word) : (v &&& 0xF#16).toNat = v.toNat % 16 := toNat_and_lowMask v (k := 4) (by decide)
  have low8 : (op &&& 0xFF#16).toNat = op.toNat % 256 := toNat_and_lowMask op (k := 8) (by decide)
  have low12 : (op &&& 0xFFF#16).toNat = op.toNat % 4096 := toNat_and_lowMask op (k := 12) (by decide)
  rw [low4, low4, low4, low8, low12, toNat_ushiftRight_div, toNat_ushiftRight_div, toNat_ushiftRight_div]
  refine ⟨?p, fieldX_val op, fieldY_val op, fieldN_val op, fieldLow_toNat op, fieldKK_toNat op, fieldNNN_toNat op⟩
  case p => rw [fieldP_toNat]; omega

/-- Settles O2, by running the decoder on the twelve words. -/
theorem decodeVectorsOfTheSpec : Obligations.DecodeVectorsOfTheSpec := by
  unfold Obligations.DecodeVectorsOfTheSpec
  decide

/-- Settles O10. -/
theorem everyStepAnswersANextState : Obligations.EveryStepAnswersANextState := by
  intro s
  unfold step
  split
  · exact cycle_next s
  · exact hostAction_next _ _

end Sys2Proof.Proofs

/-!
PROOFS. The Cycle and dispatch (spec/40_cycle_dispatch.md): how a Cycle ends, which words select the no-op, and which
fields an executor does not depend on.
-/

namespace Sys2Proof.Laws.TableRow

variable {op : Word}

/-! ### The row of the word the decoder read (30 R74, R75)

A mask of the table keeps p and perhaps a selector, and these are the fields the decoder branches on. -/

theorem decodeTable0_row (hp : (fieldP op).toNat = 0x0) :
    op &&& (row (decodeTable0 op)).1 = (row (decodeTable0 op)).2 := by
  unfold decodeTable0
  split
  case h_3 => exact BitVec.and_zero
  all_goals next hn => rw [row, and_F00F, ← BitVec.ofNat_toNat, ← BitVec.ofNat_toNat, hp, hn]; rfl

theorem decodeTable8_row (hp : (fieldP op).toNat = 0x8) :
    op &&& (row (decodeTable8 op)).1 = (row (decodeTable8 op)).2 := by
  unfold decodeTable8
  split
  case h_10 => exact BitVec.and_zero
  all_goals next hn => rw [row, and_F00F, ← BitVec.ofNat_toNat, ← BitVec.ofNat_toNat, hp, hn]; rfl

theorem decodeTableE_row (hp : (fieldP op).toNat = 0xE) :
    op &&& (row (decodeTableE op)).1 = (row (decodeTableE op)).2 := by
  unfold decodeTableE
  split
  case h_3 => exact BitVec.and_zero
  all_goals next hn => rw [row, and_F00F, ← BitVec.ofNat_toNat, ← BitVec.ofNat_toNat, hp, hn]; rfl

theorem decodeTableF_row (hp : (fieldP op).toNat = 0xF) :
    op &&& (row (decodeTableF op)).1 = (row (decodeTableF op)).2 := by
  unfold decodeTableF
  split
  case h_10 => exact BitVec.and_zero
  all_goals next hkk => rw [row, and_F0FF, ← BitVec.ofNat_toNat, ← BitVec.ofNat_toNat, hp, hkk]; rfl

/-- Every word has the fixed bits of the row it decodes to. -/
theorem decodeWord_row (op : Word) : op &&& (row (decodeWord op)).1 = (row (decodeWord op)).2 := by
  unfold decodeWord
  split
  case h_1 hp => exact decodeTable0_row hp
  case h_9 hp => exact decodeTable8_row hp
  case h_15 hp => exact decodeTableE_row hp
  case h_16 =>
    have hp : (fieldP op).toNat = 0xF := by
      simp only [imp_false] at *
      omega
    exact decodeTableF_row hp
  all_goals next hp => rw [row, and_F000, ← BitVec.ofNat_toNat, hp]; rfl

theorem row_mem_instructionRows {i : Instr} (hi : ∀ w, i ≠ .nop w) : row i ∈ instructionRows := by
  cases i with
  | nop w => exact absurd rfl (hi w)
  | _ => exact of_decide_eq_true rfl

/-- A word that no row matches has no row to decode to but the no-op's (40 R110). -/
theorem decodeWord_of_noRowMatches (h : NoRowMatches op) : decodeWord op = .nop op := by
  by_cases hi : ∃ w, decodeWord op = .nop w
  · obtain ⟨w, hw⟩ := hi
    obtain ⟨rfl, -⟩ := decodeWord_eq_nop_iff.1 hw
    exact hw
  · exact absurd (decodeWord_row op) (h _ (row_mem_instructionRows (not_exists.1 hi)))

end Sys2Proof.Laws.TableRow

namespace Sys2Proof.Machine

variable {i : Instr} {s t u : State} {op : Word}

/-! ### How a Cycle ends (40 R100 to R102) -/

theorem cycle_of_halted (h : s.halted = true) : cycle s = .next s := if_pos h

theorem cycle_of_fetchOor (hs : s.halted = false) (hpc : lastFetch < s.pc.toNat) :
    cycle s = .next (fetchFault (beginCycle s)) := by
  rw [cycle, if_neg (by simp [hs]), if_pos hpc]

/-- What the executor of the fetched word answers decides how the Cycle ends. -/
theorem cycle_eq_endOfCycle (hf : Fetches s)
    (hu : exec (decodeWord (fetchWord s)) (Fetched s (fetchWord s)) = .next u) :
    cycle s = .next (EndOfCycle s u) := by
  obtain ⟨t, ht⟩ := cycle_next s
  obtain ⟨u', hu', rfl⟩ := cycle_of_fetches hf ht
  obtain rfl := Host.Outcome.next.inj (hu.symm.trans hu')
  exact ht

theorem wordOfBytes_toNat (hi lo : Byte) : (wordOfBytes hi lo).toNat = hi.toNat * 256 + lo.toNat :=
  toNat_append_add hi lo

/-! ### What an executor does not read (40 R104) -/

/-- A change of the fields that few executors read: each field by a function of its old value. -/
structure UnreadChange where
  key : BitVec 16 → BitVec 16 := id
  draws : Nat → Nat := id
  st : Byte → Byte := id
  loaded : Bool → Bool := id
  loadStatus : LoadStatus → LoadStatus := id

/-- The state with the change made to it. -/
def UnreadChange.apply (c : UnreadChange) (s : State) : State :=
  { s with
    key := c.key s.key
    draws := c.draws s.draws
    st := c.st s.st
    loaded := c.loaded s.loaded
    loadStatus := c.loadStatus s.loadStatus }

/-- The change leaves alone what the instruction reads (40 R104) or writes: KEY for Ex9E, ExA1 and Fx0A, the draw
counter for Cxkk, ST for Fx18. -/
def UnreadChange.Spares (c : UnreadChange) (i : Instr) : Prop :=
  match i with
  | .skp _ | .sknp _ | .ldVxK _ => c.key = id
  | .rnd _ _ => c.draws = id
  | .ldStVx _ => c.st = id
  | _ => True

variable {c : UnreadChange}

/-- A choice that the change `f` does not affect answers the changed state in either branch. -/
theorem ite_next_map {p : Prop} [Decidable p] {a b : State} (f : State → State)
    (h : (if p then .next a else .next b : Result) = .next t) :
    (if p then .next (f a) else .next (f b) : Result) = .next (f t) := by
  split at h <;> next hp => simp [hp, Host.Outcome.next.inj h]

theorem dite_next_map {p : Prop} [Decidable p] {a : p → State} {b : State} (f : State → State)
    (h : (if hp : p then .next (a hp) else .next b : Result) = .next t) :
    (if hp : p then .next (f (a hp)) else .next (f b) : Result) = .next (f t) := by
  split at h <;> next hp => simp [hp, Host.Outcome.next.inj h]

theorem writeBytes_apply (c : UnreadChange) (s : State) (a : Nat) (vs : List Byte) :
    writeBytes (c.apply s) a vs = c.apply (writeBytes s a vs) := by
  induction vs generalizing s a with
  | nil => rfl
  | cons v vs ih => exact ih (writeByte s a v) (a + 1)

theorem loadRegs_apply (c : UnreadChange) (s : State) (n : Nat) :
    loadRegs (c.apply s) n = c.apply (loadRegs s n) := by
  induction n with
  | zero => rfl
  | succ n ih => rw [loadRegs, ih]; rfl

theorem skipIf_apply (c : UnreadChange) (s : State) (b : Bool) : skipIf (c.apply s) b = c.apply (skipIf s b) := by
  cases b <;> rfl

theorem drawSprite_apply (c : UnreadChange) (s : State) (cells : List Nat) :
    drawSprite (c.apply s) cells = c.apply (drawSprite s cells) := by
  unfold drawSprite
  split <;> rfl

theorem keyHeld_apply (hc : c.key = id) (k : Nat) : keyHeld (c.apply s) k = keyHeld s k := by
  rw [keyHeld, UnreadChange.apply, hc]
  rfl

theorem lowestKey_apply (hc : c.key = id) : lowestKey (c.apply s) = lowestKey s := by
  rw [lowestKey, funext (keyHeld_apply hc)]
  rfl

theorem withBlock_apply {cause : FaultCause} {n : Nat} {done : State} (h : withBlock s cause n done = .next t) :
    withBlock (c.apply s) cause n (c.apply done) = .next (c.apply t) :=
  ite_next_map c.apply h

theorem skipOnKey_apply {x : Reg} {w : Bool} (hc : c.key = id) (h : skipOnKey s x w = .next t) :
    skipOnKey (c.apply s) x w = .next (c.apply t) := by
  rw [skipOnKey, skipIf_apply, keyHeld_apply hc]
  exact ite_next_map c.apply h

theorem execLdVxK_apply {x : Reg} (hc : c.key = id) (h : execLdVxK x s = .next t) :
    execLdVxK x (c.apply s) = .next (c.apply t) := by
  rw [execLdVxK] at h ⊢
  rw [lowestKey_apply hc]
  split at h <;> next hk => rw [← Host.Outcome.next.inj h]; rfl

/-- An executor carries a change of fields it does not depend on over to its answer, faults included. -/
theorem exec_apply (hc : c.Spares i) (h : exec i s = .next t) : exec i (c.apply s) = .next (c.apply t) := by
  cases i with
  | ret | call => exact dite_next_map c.apply h
  | seImm | sneImm | seReg | sneReg =>
    obtain rfl := Host.Outcome.next.inj h
    exact congrArg Host.Outcome.next (skipIf_apply c s _)
  | skp | sknp => exact skipOnKey_apply hc h
  | ldVxK => exact execLdVxK_apply hc h
  | ldB => rw [exec, execLdB, writeBytes_apply]; exact withBlock_apply h
  | stRegs => rw [exec, execStRegs, writeBytes_apply]; exact withBlock_apply h
  | ldRegs => rw [exec, execLdRegs, loadRegs_apply]; exact withBlock_apply h
  | drw => rw [exec, execDrw, drawSprite_apply]; exact withBlock_apply h
  | rnd | ldStVx =>
    obtain rfl := Host.Outcome.next.inj h
    cases c
    cases hc
    rfl
  | _ => obtain rfl := Host.Outcome.next.inj h; rfl

end Sys2Proof.Machine

namespace Sys2Proof.Proofs

open Sys2Proof.Machine Sys2Proof.Laws

/-- Settles O6, by the three ways a Cycle begins. -/
theorem cycleFollowsItsPseudocode : Obligations.CycleFollowsItsPseudocode := by
  intro s
  refine ⟨cycle_of_halted, cycle_of_fetchOor, fun hf op hop => ?_⟩
  obtain rfl : op = fetchWord s := BitVec.eq_of_toNat_eq (hop.trans (wordOfBytes_toNat _ _).symm)
  obtain ⟨t, ht⟩ := exec_next (decodeWord (fetchWord s)) (Fetched s (fetchWord s))
  exact ⟨t, ht, cycle_eq_endOfCycle hf ht⟩

/-- Settles O9: the Cycle of a no-op is the fetch and the tick. -/
theorem nopWordsOnlyAdvance : Obligations.NopWordsOnlyAdvance := by
  refine ⟨fun _ => TableRow.decodeWord_of_noRowMatches, fun _ _ => rfl, fun s hf hop => ?_⟩
  have hexec : exec (decodeWord (fetchWord s)) (Fetched s (fetchWord s)) = .next (Fetched s (fetchWord s)) := by
    rw [TableRow.decodeWord_of_noRowMatches hop]; rfl
  refine (cycle_eq_endOfCycle hf hexec).trans ?_
  simp [EndOfCycle, hf.1]

/-- Settles O11: the tick takes each timer from the value the executor left in it. -/
theorem timersTickInEveryCycleThatDoesNotFault : Obligations.TimersTickInEveryCycleThatDoesNotFault := by
  intro s t hf h ht
  obtain ⟨u, hu, rfl⟩ := cycle_of_fetches hf h
  obtain ⟨hdt, hst, -⟩ := exec_keeps_timers_draws hu
  obtain ⟨hh, hend⟩ | ⟨-, hend⟩ := finishCycle_cases (beginCycle s) u
  · rw [hend] at ht
    exact nomatch hh.symm.trans ht
  rw [hend]
  refine ⟨fun x hx => ?dtWritten, fun hi => congrArg countDown (hdt hi), fun x hx => ?stWritten,
    fun hi => congrArg countDown (hst hi)⟩
  all_goals
    rw [hx] at hu
    obtain rfl := Host.Outcome.next.inj hu
    rfl

/-- Settles O52: each change is of a field that the instructions it is claimed for do not read. -/
theorem executorsIgnoreWhatTheyDoNotRead : Obligations.ExecutorsIgnoreWhatTheyDoNotRead := by
  intro i s t h
  refine ⟨fun hskp hsknp hwait k => exec_apply (c := { key := fun _ => k }) ?key h,
    fun hrnd d => exec_apply (c := { draws := fun _ => d }) ?draws h,
    fun hst b => exec_apply (c := { st := fun _ => b }) ?st h,
    fun b l => exec_apply (c := { loaded := fun _ => b, loadStatus := fun _ => l }) ?loaded h⟩
  case key =>
    cases i with
    | skp x => exact absurd rfl (hskp x)
    | sknp x => exact absurd rfl (hsknp x)
    | ldVxK x => exact absurd rfl (hwait x)
    | _ => trivial
  case draws =>
    cases i with
    | rnd x kk => exact absurd rfl (hrnd x kk)
    | _ => trivial
  case st =>
    cases i with
    | ldStVx x => exact absurd rfl (hst x)
    | _ => trivial
  case loaded => cases i <;> trivial

/-- Settles O8: the two bytes at PC are those of the fetched word. -/
theorem stepRunsTheDecodedInstruction : Obligations.StepRunsTheDecodedInstruction := by
  intro s t i rest hr hd _ h
  obtain ⟨hp, hf⟩ := hr
  have hi : decodeWord (fetchWord s) = i := congrArg Prod.fst (Except.ok.inj hd)
  rw [step, hp]
  exact cycle_eq_endOfCycle hf (hi ▸ h)

end Sys2Proof.Proofs

/-!
PROOFS. Control flow (spec/41_control_flow.md): the words of the jumps, calls and comparison skips, and where each of
them leaves PC and the stack.
-/

namespace Sys2Proof

variable {op mask m : Word}

/-! ### The fields that a row's mask and match fix (30 R74, R75) -/

theorem fieldP_eq_of_mask (hmask : fieldP mask = BitVec.allOnes 4) (h : op &&& mask = m) : fieldP op = fieldP m := by
  rw [← h, fieldP, fieldP, BitVec.extractLsb'_and, ← fieldP, ← fieldP, hmask, BitVec.and_allOnes]

theorem fieldLow_eq_of_mask (hmask : fieldLow mask = BitVec.allOnes 4) (h : op &&& mask = m) :
    fieldLow op = fieldLow m := by
  rw [← h, fieldLow, fieldLow, BitVec.extractLsb'_and, ← fieldLow, ← fieldLow, hmask, BitVec.and_allOnes]

end Sys2Proof

namespace Sys2Proof.Machine

variable {s : State}

/-! ### The target of a jump (30 R73, 41 R121 to R123) -/

theorem toNat_zext16 (nnn : BitVec 12) : (zext16 nnn).toNat = nnn.toNat :=
  BitVec.toNat_setWidth_of_le (by decide)

/-- The largest target is 0x0FFF + 0xFF, so the sum does not wrap (41 R123). -/
theorem toNat_zext16_add (nnn : BitVec 12) (b : Byte) :
    (zext16 nnn + b.setWidth 16).toNat = nnn.toNat + b.toNat := by
  rw [zext16]; bv_omega

/-! ### The stack (10 R30, 41 R120, R122) -/

theorem exec_ret_of_occupied (h : 0 < s.sp.val) : exec .ret s = .next (popPc s h) := dif_pos h

theorem exec_ret_of_empty (h : s.sp.val = 0) : exec .ret s = .next (raiseFault s .stackUnderflow 0) :=
  dif_neg (by omega)

theorem exec_call_of_room (nnn : BitVec 12) (h : s.sp.val < 16) :
    exec (.call nnn) s = .next (setPc (pushPc s h) (zext16 nnn)) := dif_pos h

theorem exec_call_of_full (nnn : BitVec 12) (h : s.sp.val = 16) :
    exec (.call nnn) s = .next (raiseFault s .stackOverflow 16) := dif_neg (by omega)

/-- A pop takes the topmost occupied slot, whose number is the new SP. -/
theorem popPc_eq {k : Fin 16} (hk : s.sp.val = k.val + 1) (h : 0 < s.sp.val) :
    popPc s h = { s with sp := k.castSucc, pc := s.stack[k] } := by
  simp [popPc, hk, Fin.ext_iff]

theorem pushPc_stack_getElem (h : s.sp.val < 16) (j : Fin 16) :
    (pushPc s h).stack[j] = if j.val = s.sp.val then s.pc else s.stack[j] :=
  (Vector.getElem_set h j.isLt).trans (if_congr eq_comm rfl rfl)

/-! ### The skips (41 R124 to R128) -/

theorem skipIf_beq (s : State) (a b : Byte) :
    skipIf s (a == b) = { s with pc := if a = b then s.pc + 2 else s.pc } := by
  simp only [skipIf_eq, beq_iff_eq]

theorem skipIf_bne (s : State) (a b : Byte) :
    skipIf s (a != b) = { s with pc := if a = b then s.pc else s.pc + 2 } := by
  simp only [skipIf_eq, bne_iff_ne, ite_not]

end Sys2Proof.Machine

namespace Sys2Proof.Proofs

open Sys2Proof.Machine

/-- Settles O12: the popped slot is the one below SP. -/
theorem retPopsOrUnderflows : Obligations.RetPopsOrUnderflows := by
  refine ⟨fun op h => ?decode, fun s k hk => ?pop, fun s => exec_ret_of_empty⟩
  case decode =>
    rw [decodeWord_of_p0 (fieldP_eq_of_mask rfl h), decodeTable0, fieldLow_eq_of_mask rfl h]; rfl
  case pop =>
    have hpos : 0 < s.sp.val := by omega
    exact ⟨_, (exec_ret_of_occupied hpos).trans (congrArg _ (popPc_eq hk hpos)), rfl, rfl⟩

/-- Settles O13: each jump writes PC alone, and neither target wraps. -/
theorem jumpsSetThePc : Obligations.JumpsSetThePc := by
  refine ⟨fun op h => ?jp, fun op h => ?jpV0, fun s nnn => ⟨_, rfl, rfl, toNat_zext16 nnn⟩,
    fun s nnn => ⟨_, rfl, rfl, toNat_zext16_add nnn _⟩⟩
  all_goals rw [decodeWord, fieldP_eq_of_mask rfl h]; rfl

/-- Settles O14: a call is a push and then a jump. -/
theorem callPushesOrOverflows : Obligations.CallPushesOrOverflows := by
  refine ⟨fun op h => ?decode, fun s nnn hsp => ?push, fun s nnn => exec_call_of_full nnn⟩
  case decode => rw [decodeWord, fieldP_eq_of_mask rfl h]; rfl
  case push =>
    exact ⟨_, exec_call_of_room nnn hsp, rfl, rfl, toNat_zext16 nnn, pushPc_stack_getElem hsp⟩

/-- Settles O15: each skip is decided by an equality of two bytes or its negation. -/
theorem comparisonSkips : Obligations.ComparisonSkips := by
  refine ⟨fun op h => ?seImm, fun op h => ?sneImm, fun op h => ?seReg, fun op h => ?sneReg, fun s x y kk =>
    ⟨congrArg _ (skipIf_beq s s.v[x] kk), congrArg _ (skipIf_bne s s.v[x] kk),
      congrArg _ (skipIf_beq s s.v[x] s.v[y]), congrArg _ (skipIf_bne s s.v[x] s.v[y])⟩⟩
  all_goals rw [decodeWord, fieldP_eq_of_mask rfl h]; rfl

end Sys2Proof.Proofs

/-!
PROOFS. Load and arithmetic (spec/42_alu.md): the words of the register executors, the byte each of them leaves in Vx and
the flag it leaves in VF.
-/

namespace Sys2Proof

variable {op m : Word} {p n : BitVec 4} {i : Instr}

/-! ### The words of a row of format XK or XY (30 R72, R75) -/

theorem wordPXKK_of_mask (hp : fieldP m = p) (h : op &&& 0xF000#16 = m) :
    wordPXKK p (fieldX op) (fieldKK op) = op :=
  wordPXKK_of_fields ((fieldP_eq_of_mask rfl h).trans hp) rfl

theorem wordPXYN_of_mask (hp : fieldP m = p) (hn : fieldLow m = n) (h : op &&& 0xF00F#16 = m) :
    wordPXYN p (fieldX op) (fieldY op) n = op :=
  wordPXYN_of_fields ((fieldP_eq_of_mask rfl h).trans hp)
    (congrArg BitVec.toNat ((fieldLow_eq_of_mask rfl h).trans hn))

theorem decodeWord_of_encode_eq (hi : i.wf = true) (h : encode i = op) : decodeWord op = i :=
  h ▸ decodeWord_encode hi

end Sys2Proof

namespace Sys2Proof.Machine

variable {s : State} {x : Reg} {b b' f' : Byte} {f : Bool}

/-! ### The result mod 256 (42 R140) -/

theorem add_byte_eq (a b : Byte) : a + b = BitVec.ofNat 8 ((a.toNat + b.toNat) % 256) := by
  rw [← BitVec.toNat_inj, BitVec.toNat_add, BitVec.toNat_ofNat, Nat.mod_mod]

theorem sub_byte_eq (a b : Byte) : a - b = BitVec.ofNat 8 ((a.toNat + 256 - b.toNat) % 256) := by
  rw [← toNat_sub_byte, BitVec.ofNat_toNat, BitVec.setWidth_eq]

theorem shiftRight_one_eq (a : Byte) : a >>> 1 = BitVec.ofNat 8 (a.toNat / 2) := by
  bv_omega

theorem shiftLeft_one_eq (a : Byte) : a <<< 1 = BitVec.ofNat 8 (a.toNat * 2 % 256) := by
  bv_omega

/-! ### The flag as a byte (10 R21) -/

theorem flagByte_decide (p : Prop) [Decidable p] : flagByte (decide p) = if p then 1 else 0 := by
  simp only [flagByte, decide_eq_true_eq]

theorem flagByte_getLsbD (a : Byte) (k : Nat) : flagByte (a.getLsbD k) = BitVec.ofNat 8 (a.toNat / 2 ^ k % 2) := by
  rw [← Nat.toNat_testBit, BitVec.testBit_toNat]
  cases a.getLsbD k <;> rfl

theorem flagByte_outRight (a : Byte) : flagByte (outRight a) = BitVec.ofNat 8 (a.toNat % 2) :=
  (flagByte_getLsbD a 0).trans (by rw [Nat.pow_zero, Nat.div_one])

/-- Bit 7 is the top bit of a byte, so nothing stands above it. -/
theorem flagByte_outLeft (a : Byte) : flagByte (outLeft a) = BitVec.ofNat 8 (a.toNat / 128) :=
  (flagByte_getLsbD a 7).trans (congrArg _ (Nat.mod_eq_of_lt (by omega)))

/-! ### What an executor leaves in V -/

theorem next_setV_eq (hb : b = b') :
    (.next (setV s x b) : Result) = .next { s with v := s.v.set x b' } :=
  hb ▸ rfl

theorem next_setFlagged_eq (hf : flagByte f = f') (hb : b = b') :
    (.next (setFlagged s x b f) : Result) = .next { s with v := (s.v.set 15 f').set x b' } :=
  hf ▸ hb ▸ rfl

end Sys2Proof.Machine

namespace Sys2Proof.Proofs

open Sys2Proof.Machine

/-- Settles O17. -/
theorem loadAndAddImmediate : Obligations.LoadAndAddImmediate := by
  refine ⟨fun op h => ?ld, fun op h => ?add, fun s x kk => ⟨rfl, next_setV_eq (add_byte_eq s.v[x] kk)⟩⟩
  all_goals exact decodeWord_of_encode_eq rfl (wordPXKK_of_mask rfl h)

/-- Settles O18: each executor is one write of Vx. -/
theorem copyAndBitwise : Obligations.CopyAndBitwise := by
  refine ⟨fun op h => ?ld, fun op h => ?or, fun op h => ?and, fun op h => ?xor, fun s x y => ⟨rfl, rfl, rfl, rfl⟩⟩
  all_goals exact decodeWord_of_encode_eq rfl (wordPXYN_of_mask rfl rfl h)

/-- Settles O19. -/
theorem addWithCarry : Obligations.AddWithCarry :=
  ⟨fun _ h => decodeWord_of_encode_eq rfl (wordPXYN_of_mask rfl rfl h),
    fun s x y => next_setFlagged_eq (flagByte_decide _) (add_byte_eq s.v[x] s.v[y])⟩

/-- Settles O20: one difference and one comparison, the operands exchanged. -/
theorem subtractBothWays : Obligations.SubtractBothWays := by
  refine ⟨fun op h => ?sub, fun op h => ?subn, fun s x y =>
    ⟨next_setFlagged_eq (flagByte_decide _) (sub_byte_eq s.v[x] s.v[y]),
      next_setFlagged_eq (flagByte_decide _) (sub_byte_eq s.v[y] s.v[x])⟩⟩
  all_goals exact decodeWord_of_encode_eq rfl (wordPXYN_of_mask rfl rfl h)

/-- Settles O21: the flag is the bit of the old Vx that the shift drops. -/
theorem shiftsByOne : Obligations.ShiftsByOne := by
  refine ⟨fun op h => ?shr, fun op h => ?shl, fun s x y =>
    ⟨next_setFlagged_eq (flagByte_outRight s.v[x]) (shiftRight_one_eq s.v[x]),
      next_setFlagged_eq (flagByte_outLeft s.v[x]) (shiftLeft_one_eq s.v[x])⟩⟩
  all_goals exact decodeWord_of_encode_eq rfl (wordPXYN_of_mask rfl rfl h)

/-- Settles O23: the byte is that of the draw counter before it advances. -/
theorem randomByteAndMask : Obligations.RandomByteAndMask :=
  ⟨fun _ h => decodeWord_of_encode_eq rfl (wordPXKK_of_mask rfl h), fun _ _ _ => rfl⟩

end Sys2Proof.Proofs

/-!
PROOFS. Index register and memory (spec/43_index_memory.md): the words of the executors that use I, the bytes a store
leaves in memory and the registers a load leaves in V.
-/

namespace Sys2Proof

variable {op mask m : Word} {p : BitVec 4} {kk : Byte}

/-! ### The words of TableF (30 R75) -/

theorem fieldKK_eq_of_mask (hmask : fieldKK mask = BitVec.allOnes 8) (h : op &&& mask = m) :
    fieldKK op = fieldKK m := by
  rw [← h, fieldKK, fieldKK, BitVec.extractLsb'_and, ← fieldKK, ← fieldKK, hmask, BitVec.and_allOnes]

/-- Where p and the low byte are fixed, only x is free. -/
theorem wordPXKK_of_selector (hp : fieldP m = p) (hkk : fieldKK m = kk) (h : op &&& 0xF0FF#16 = m) :
    wordPXKK p (fieldX op) kk = op :=
  wordPXKK_of_fields ((fieldP_eq_of_mask rfl h).trans hp)
    (congrArg BitVec.toNat ((fieldKK_eq_of_mask rfl h).trans hkk))

end Sys2Proof

namespace Sys2Proof.Machine

variable {s : State} {x : Reg} {vs : List Byte} {c : FaultCause}

/-! ### I (43 R173, R174) -/

theorem toNat_ofNat_of_lt {w n : Nat} (h : n < 2 ^ w) : (BitVec.ofNat w n).toNat = n := by
  rw [BitVec.toNat_ofNat, Nat.mod_eq_of_lt h]

theorem toNat_add_setWidth (a : Word) (b : Byte) : (a + b.setWidth 16).toNat = (a.toNat + b.toNat) % 65536 := by
  rw [add_setWidth_eq, BitVec.toNat_ofNat]

/-- The largest glyph address is 0x1B0 + 5 * 255, so the sum does not wrap (43 R174). -/
theorem toNat_glyphAddr (p : Params) (b : Byte) :
    (BitVec.ofNat 16 (p.fontBase.val + 5 * b.toNat)).toNat = p.fontBase.val + 5 * b.toNat := by
  have hbase : p.fontBase.val < 0x1B1 := p.fontBase.isLt
  exact toNat_ofNat_of_lt (by omega)

/-! ### The stores (43 R175, R176) -/

/-- A store of a block that is empty or ends inside memory changes memory alone: its bytes stand from I on and every
other byte is as before. -/
theorem withBlock_store_inside (hs : MemoryOk s) (hin : vs.length = 0 ∨ s.i.toNat + vs.length ≤ memSize) :
    ∃ t, withBlock s c vs.length (writeBytes s (blockAddr s 0) vs) = .next t ∧ t = { s with mem := t.mem } ∧
      (∀ k (hk : k < vs.length), readByte t (s.i.toNat + k) = vs[k]) ∧
      ∀ a, a < s.i.toNat ∨ s.i.toNat + vs.length ≤ a → readByte t a = readByte s a := by
  refine ⟨_, withBlock_inside hin, writeBytes_eq .., ?_⟩
  obtain hnil | hend := hin
  · obtain rfl := List.eq_nil_of_length_eq_zero hnil
    exact ⟨nofun, fun _ _ => rfl⟩
  · exact ⟨readByte_writeBytes_inside vs hs hend, fun _ => readByte_writeBytes_outside vs hs hend⟩

/-- Fx33 with all three addresses inside memory (43 R175). -/
theorem exec_ldB_inside (hs : MemoryOk s) (h : s.i.toNat + 3 ≤ memSize) :
    ∃ t, exec (.ldB x) s = .next t ∧ t = { s with mem := t.mem } ∧
      (∀ k (hk : k < 3), readByte t (s.i.toNat + k) = (bcdDigits (getV s x))[k]) ∧
      ∀ a, a < s.i.toNat ∨ s.i.toNat + 3 ≤ a → readByte t a = readByte s a :=
  withBlock_store_inside (vs := bcdDigits (getV s x)) hs (.inr h)

/-- Fx55 with an empty block, wherever I points, or a block that ends inside memory (43 R176). -/
theorem exec_stRegs_inside (hs : MemoryOk s) (h : storeCount s x = 0 ∨ s.i.toNat + storeCount s x ≤ memSize) :
    ∃ t, exec (.stRegs x) s = .next t ∧ t = { s with mem := t.mem } ∧
      (∀ r : Reg, r.val < storeCount s x → readByte t (s.i.toNat + r.val) = s.v[r]) ∧
      ∀ a, a < s.i.toNat ∨ s.i.toNat + storeCount s x ≤ a → readByte t a = readByte s a := by
  have hlen := length_storedRegs s x
  rw [exec_stRegs_eq]
  obtain ⟨t, ht, hframe, hbytes, hout⟩ := withBlock_store_inside (c := .memWriteOor) hs (hlen.symm ▸ h)
  refine ⟨t, ht, hframe, fun r hr => ?_, hlen ▸ hout⟩
  rw [hbytes r.val (hlen.symm ▸ hr)]
  simp

theorem storeCount_eq (s : State) (x : Reg) :
    storeCount s x = if s.params.fx55Bound = .exclusive then x.val else x.val + 1 := by
  unfold storeCount
  cases s.params.fx55Bound <;> rfl

/-! ### The load (43 R177) -/

theorem exec_ldRegs_inside (h : s.i.toNat + x.val < memSize) : exec (.ldRegs x) s = .next (loadRegs s (x.val + 1)) :=
  withBlock_inside (.inr h)

theorem loadRegs_v_getElem (s : State) (x r : Reg) :
    (loadRegs s (x.val + 1)).v[r] = if r ≤ x then readByte s (s.i.toNat + r.val) else s.v[r] :=
  (getV_loadRegs s (x.val + 1) x.isLt r).trans (if_congr Nat.lt_succ_iff rfl rfl)

end Sys2Proof.Machine

namespace Sys2Proof.Proofs

open Sys2Proof.Machine

/-- Settles O24: each executor sets I, and only ADD I, Vx can wrap. -/
theorem indexRegisterIsSet : Obligations.IndexRegisterIsSet := by
  refine ⟨fun op h => ?ldI, fun op h => ?addI, fun op h => ?ldF, fun s x nnn =>
    ⟨⟨_, rfl, rfl, toNat_zext16 nnn⟩, ⟨_, rfl, rfl, toNat_add_setWidth s.i s.v[x]⟩,
      ⟨_, rfl, rfl, toNat_glyphAddr s.params s.v[x]⟩⟩⟩
  case ldI => rw [decodeWord, fieldP_eq_of_mask rfl h]; rfl
  all_goals exact decodeWord_of_encode_eq rfl (wordPXKK_of_selector rfl rfl h)

/-- Settles O26: the three digits are one block from I on, and each of them fits its byte. -/
theorem bcdStoreWritesThreeDigits : Obligations.BcdStoreWritesThreeDigits := by
  refine ⟨fun op h => ?decode, fun s x hs h => ?store, fun s x h => ?fault⟩
  case decode => exact decodeWord_of_encode_eq rfl (wordPXKK_of_selector rfl rfl h)
  case store =>
    obtain ⟨t, ht, hframe, hbytes, hout⟩ := exec_ldB_inside (x := x) hs (Nat.succ_le_succ h)
    refine ⟨t, ht, hframe, (congrArg _ (hbytes 0 (by decide))).trans ?_, (congrArg _ (hbytes 1 (by decide))).trans ?_,
      (congrArg _ (hbytes 2 (by decide))).trans ?_, hout⟩
    all_goals exact toNat_ofNat_of_lt (by omega)
  case fault => exact withBlock_outside (Nat.succ_pos 2) (Nat.succ_lt_succ h)

/-- Settles O27: the block is the list of the first c registers, for either bound. -/
theorem blockStoreWritesTheLowRegisters : Obligations.BlockStoreWritesTheLowRegisters := by
  refine ⟨fun op h => ?decode, fun s x c hc => ?_⟩
  case decode => exact decodeWord_of_encode_eq rfl (wordPXKK_of_selector rfl rfl h)
  obtain rfl : c = storeCount s x := hc.trans (storeCount_eq s x).symm
  refine ⟨fun hs h => exec_stRegs_inside hs ?inside, fun hpos h => withBlock_outside hpos ?outside⟩
  all_goals rw [memSize]; omega

/-- Settles O28: the x + 1 bytes from I on end inside memory exactly when the last address does. -/
theorem blockLoadReadsVxInclusive : Obligations.BlockLoadReadsVxInclusive := by
  refine ⟨fun op h => ?decode, fun s x h => ?load, fun s x h => ?fault⟩
  case decode => exact decodeWord_of_encode_eq rfl (wordPXKK_of_selector rfl rfl h)
  case load => exact ⟨_, exec_ldRegs_inside (Nat.lt_succ_of_le h), loadRegs_eq .., loadRegs_v_getElem s x⟩
  case fault => exact withBlock_outside (Nat.succ_pos x.val) (Nat.succ_lt_succ h)

end Sys2Proof.Proofs

/-!
PROOFS. Display (spec/44_display.md): the words of the two executors that write the framebuffer, the cells a sprite draw
toggles, its collision flag and its two faults.
-/

namespace Sys2Proof.Machine

variable {s t u : State} {x y : Reg} {n : Fin 16} {cells : List Nat} {p r c : Nat}

/-! ### The cells of a sprite (44 R191) -/

/-- The cells that the set pixels of DRW Vx, Vy, n map to, in row-major order. -/
def drwCells (s : State) (x y : Reg) (n : Fin 16) : List Nat :=
  spriteCells s (s.v[x].toNat % 64) (s.v[y].toNat % 32) n.val

theorem mem_drwCells :
    p ∈ drwCells s x y n ↔ ∃ r < n.val, ∃ c < 8, spritePixel s r c ∧ p = spriteCell s x y r c := mem_spriteCells

theorem spriteCell_mem_drwCells (hr : r < n.val) (hc : c < 8) (hset : spritePixel s r c) :
    spriteCell s x y r c ∈ drwCells s x y n := mem_drwCells.2 ⟨r, hr, c, hc, hset, rfl⟩

theorem forall_mem_drwCells {P : Nat → Prop} :
    (∀ p ∈ drwCells s x y n, P p) ↔ ∀ r < n.val, ∀ c < 8, spritePixel s r c → P (spriteCell s x y r c) := by
  refine ⟨fun h r hr c hc hset => h _ (spriteCell_mem_drwCells hr hc hset), fun h p hp => ?_⟩
  obtain ⟨r, hr, c, hc, hset, rfl⟩ := mem_drwCells.1 hp
  exact h r hr c hc hset

/-- A draw reads memory, I and the two origin registers alone. -/
theorem drwCells_congr (hmem : s.mem = t.mem) (hparams : s.params = t.params) (hi : s.i = t.i) (hx : s.v[x] = t.v[x])
    (hy : s.v[y] = t.v[y]) : drwCells s x y n = drwCells t x y n := by
  simp only [drwCells, spriteCells, blockAddr, readByte_congr hmem hparams, hi, hx, hy]

/-- A sprite is 8 pixels wide and a row of the grid 64, so cells rise in row-major order of the pixels. -/
theorem rowMajor_of_spriteCell_lt {r' c' : Nat} (hc : c < 8) (hc' : c' < 8)
    (h : spriteCell s x y r' c' < spriteCell s x y r c) : r' < r ∨ (r' = r ∧ c' < c) := by
  unfold spriteCell at h
  omega

/-! ### The draw (44 R192) -/

/-- The two checks of DRW pass: the sprite bytes lie in memory and every set pixel falls on the grid. -/
def SpriteFits (s : State) (x y : Reg) (n : Fin 16) : Prop :=
  (n.val = 0 ∨ s.i.toNat + n.val ≤ memSize) ∧ ∀ p ∈ drwCells s x y n, p < fbCells

/-- `t` is `s` after a draw of the listed cells: these are toggled and VF says whether one of them was on. -/
structure Drawn (s t : State) (cells : List Nat) : Prop where
  frame : t = { s with fb := t.fb, v := s.v.set 15 (flagByte (cells.any (fbCell s.fb))) }
  toggled : ∀ q < fbCells, fbCell t.fb q = (fbCell s.fb q ^^ decide (q ∈ cells))

theorem drawn_drawCells (hnodup : cells.Nodup) (hgrid : ∀ p ∈ cells, p < fbCells) :
    Drawn s (setV (setFb s (drawCells s.fb false cells).1) vf (flagByte (drawCells s.fb false cells).2)) cells where
  frame := by rw [drawCells_hit s.fb false cells hnodup hgrid, Bool.false_or]; rfl
  toggled _ hq := fbCell_drawCells s.fb false cells hnodup hq

theorem exec_drw_inside (hmem : n.val = 0 ∨ s.i.toNat + n.val ≤ memSize) :
    exec (.drw x y n) s = .next (drawSprite s (drwCells s x y n)) := withBlock_inside hmem

theorem exec_drw_of_fits (h : SpriteFits s x y n) :
    ∃ t, exec (.drw x y n) s = .next t ∧ Drawn s t (drwCells s x y n) := by
  obtain ⟨hmem, hgrid⟩ := h
  obtain ⟨p, hp, -⟩ | ⟨-, hdraw⟩ := drawSprite_cases s (drwCells s x y n)
  · have hoff : fbCells ≤ p := of_decide_eq_true (List.find?_some hp :)
    exact absurd (hgrid p (List.mem_of_find?_eq_some hp)) (Nat.not_lt.2 hoff)
  · exact ⟨_, (exec_drw_inside hmem).trans (congrArg _ hdraw), drawn_drawCells (spriteCells_nodup ..) hgrid⟩

theorem spriteFits_of_exec (h : exec (.drw x y n) s = .next t) (ht : t.halted = false) : SpriteFits s x y n := by
  obtain ⟨-, rfl⟩ | ⟨hmem, rfl⟩ := withBlock_next h
  · cases ht
  obtain ⟨p, -, hfault⟩ | ⟨hgrid, -⟩ := drawSprite_cases s (drwCells s x y n)
  · exact nomatch (congrArg State.halted hfault).symm.trans ht
  · exact ⟨by omega, hgrid⟩

theorem drawn_of_exec (hfits : SpriteFits s x y n) (h : exec (.drw x y n) s = .next t) :
    Drawn s t (drwCells s x y n) := by
  obtain ⟨t', ht', hdrawn⟩ := exec_drw_of_fits hfits
  obtain rfl := Host.Outcome.next.inj (h.symm.trans ht')
  exact hdrawn

/-! ### The collision flag and the toggled cells -/

theorem flagByte_any_eq_one {f : Nat → Bool} (h : ∃ p ∈ cells, f p = true) : flagByte (cells.any f) = 1 := by
  rw [List.any_eq_true.2 h]; rfl

theorem flagByte_any_eq_zero {f : Nat → Bool} (h : ∀ p ∈ cells, f p = false) : flagByte (cells.any f) = 0 := by
  rw [List.any_eq_false.2 fun p hp => by simp [h p hp]]; rfl

namespace Drawn

theorem vf_eq (h : Drawn s t cells) : t.v[(15 : Reg)] = flagByte (cells.any (fbCell s.fb)) := by
  rw [h.frame]
  exact (getV_setV (s := s) 15 15 _).trans (if_pos rfl)

theorem fbCell_of_mem (h : Drawn s t cells) (hq : p < fbCells) (hp : p ∈ cells) : fbCell t.fb p = !fbCell s.fb p := by
  rw [h.toggled p hq, decide_eq_true hp, Bool.xor_true]

theorem fbCell_of_not_mem (h : Drawn s t cells) (hq : p < fbCells) (hp : p ∉ cells) : fbCell t.fb p = fbCell s.fb p := by
  rw [h.toggled p hq, decide_eq_false hp, Bool.xor_false]

/-- XOR is its own inverse (44 R193). -/
theorem fb_restored (h : Drawn s t cells) (h' : Drawn t u cells) : u.fb = s.fb :=
  BitVec.eq_of_getLsbD_eq fun q hq => by
    change fbCell u.fb q = fbCell s.fb q
    rw [h'.toggled q hq, h.toggled q hq, Bool.xor_assoc, Bool.xor_self, Bool.xor_false]

end Drawn

/-! ### FB_OOR (44 R192, 60 R225) -/

/-- The first listed cell past the grid, in a rising list, is the lowest one. -/
theorem drawSprite_of_lowest (hrise : cells.Pairwise (· < ·)) (hp : p ∈ cells) (hoff : fbCells ≤ p)
    (hlow : ∀ q ∈ cells, q < p → q < fbCells) : drawSprite s cells = raiseFault s .fbOor p := by
  have hfind : cells.find? (fun q => decide (fbCells ≤ q)) = some p := by
    obtain ⟨before, after, rfl⟩ := List.append_of_mem hp
    refine List.find?_eq_some_iff_append.2 ⟨decide_eq_true hoff, before, after, rfl, fun q hq => ?_⟩
    have hlt : q < p := (List.pairwise_append.1 hrise).2.2 q hq p List.mem_cons_self
    simpa using hlow q (List.mem_append_left _ hq) hlt
  rw [drawSprite, hfind]

end Sys2Proof.Machine

namespace Sys2Proof.Proofs

open Sys2Proof.Machine

/-- Settles O31: the cells of a sprite rise in row-major order, so none is toggled twice and the first one past the grid
is the lowest. -/
theorem spriteDrawTogglesAndReportsCollision : Obligations.SpriteDrawTogglesAndReportsCollision := by
  refine ⟨fun op h => ?decode, fun s x y n hmem => ?inside, fun s x y n hn h => ?memOor⟩
  case decode => rw [decodeWord, fieldP_eq_of_mask rfl h]; rfl
  case memOor => exact withBlock_outside hn (by rw [memSize]; omega)
  have hmem : n.val = 0 ∨ s.i.toNat + n.val ≤ memSize := by rw [memSize]; omega
  refine ⟨fun hgrid => ?draw, fun r hr c hc hset hoff hfirst => ?fbOor⟩
  case draw =>
    have hfits : SpriteFits s x y n :=
      ⟨hmem, forall_mem_drwCells.2 fun r hr c hc hset => Nat.lt_succ_of_le (hgrid r hr c hc hset)⟩
    obtain ⟨t, ht, hdrawn⟩ := exec_drw_of_fits hfits
    refine ⟨t, ht, ⟨_, hdrawn.frame, fun ⟨r, hr, c, hc, hset, hon⟩ => ?hit, fun hoff => ?noHit⟩,
      fun p hp => ⟨fun hpixel => ?toggled, fun hnone => ?kept⟩⟩
    case hit => exact flagByte_any_eq_one ⟨_, spriteCell_mem_drwCells hr hc hset, hon⟩
    case noHit => exact flagByte_any_eq_zero (forall_mem_drwCells.2 hoff)
    case toggled => exact hdrawn.fbCell_of_mem hp (mem_drwCells.2 hpixel)
    case kept => exact hdrawn.fbCell_of_not_mem hp fun hin => forall_mem_drwCells.2 hnone p hin rfl
  case fbOor =>
    refine (exec_drw_inside hmem).trans (congrArg _ (drawSprite_of_lowest (spriteCells_rising ..)
      (spriteCell_mem_drwCells hr hc hset) hoff (forall_mem_drwCells.2 fun r' hr' c' hc' hset' hlt => ?_)))
    exact Nat.lt_succ_of_le (hfirst r' hr' c' hc' (rowMajor_of_spriteCell_lt hc hc' hlt) hset')

/-- Settles O32: the second draw lists the same cells, each in the state opposite to the one before the first draw. -/
theorem drawingTwiceRestoresTheFramebuffer : Obligations.DrawingTwiceRestoresTheFramebuffer := by
  intro s t u x y n _ hst ht hx hy htu
  have hfits := spriteFits_of_exec hst ht
  have hdrawn := drawn_of_exec hfits hst
  have hi : t.i = s.i := (congrArg State.i hdrawn.frame :)
  have hcells : drwCells t x y n = drwCells s x y n :=
    drwCells_congr (congrArg State.mem hdrawn.frame :) (congrArg State.params hdrawn.frame :) hi hx hy
  have hfits' : SpriteFits t x y n := by rwa [SpriteFits, hi, hcells]
  have hdrawn' : Drawn t u (drwCells s x y n) := hcells ▸ drawn_of_exec hfits' htu
  have htoggled {p : Nat} (hp : p ∈ drwCells s x y n) : fbCell t.fb p = !fbCell s.fb p :=
    hdrawn.fbCell_of_mem (hfits.2 p hp) hp
  refine ⟨(congrArg State.halted hdrawn'.frame :).trans ht, hdrawn.fb_restored hdrawn',
    fun ⟨r, hr, c, hc, hset, hoff⟩ => ?one, fun hon => ?zero⟩
  case one =>
    have hp := spriteCell_mem_drwCells (x := x) (y := y) hr hc hset
    exact hdrawn'.vf_eq.trans (flagByte_any_eq_one ⟨_, hp, by rw [htoggled hp, fbCell, hoff]; rfl⟩)
  case zero =>
    have hall : ∀ p ∈ drwCells s x y n, fbCell s.fb p = true := forall_mem_drwCells.2 hon
    exact hdrawn'.vf_eq.trans (flagByte_any_eq_zero fun p hp => by rw [htoggled hp, hall p hp]; rfl)

/-- Settles O30. -/
theorem clearScreenTurnsEveryCellOff : Obligations.ClearScreenTurnsEveryCellOff := by
  refine ⟨fun op h => ?decode, fun s => ⟨_, rfl, rfl, fun p => BitVec.getLsbD_zero⟩⟩
  case decode =>
    rw [decodeWord_of_p0 (fieldP_eq_of_mask rfl h), decodeTable0, fieldLow_eq_of_mask rfl h]; rfl

end Sys2Proof.Proofs

/-!
PROOFS. Keypad and timers (spec/45_keys_timers.md): the two skips on a key, the wait for a key, and the Cycle of an
executor that reads or writes a timer.
-/

namespace Sys2Proof.Machine

variable {i : Instr} {s u : State} {x : Reg} {k : Nat}

/-! ### The skips on a key (45 R200, R201) -/

theorem skipOnKey_of_key (w : Bool) (h : (getV s x).toNat ≤ 15) :
    skipOnKey s x w = .next (skipIf s (keyHeld s (getV s x).toNat == w)) := if_neg (Nat.not_lt.2 h)

theorem skipOnKey_of_noKey (w : Bool) (h : 15 < (getV s x).toNat) :
    skipOnKey s x w = .next (raiseFault s .keyOor (getV s x).toNat) := if_pos h

theorem skipIf_beq_true (s : State) (b : Bool) :
    skipIf s (b == true) = { s with pc := if b then s.pc + 2 else s.pc } := by
  cases b <;> rfl

theorem skipIf_beq_false (s : State) (b : Bool) :
    skipIf s (b == false) = { s with pc := if b then s.pc else s.pc + 2 } := by
  cases b <;> rfl

/-! ### The wait for a key (45 R202) -/

theorem exec_ldVxK_of_lowestKey (h : lowestKey s = some k) :
    exec (.ldVxK x) s = .next (setV s x (BitVec.ofNat 8 k)) := by
  rw [exec, execLdVxK, h]

theorem exec_ldVxK_of_noKey (h : ∀ k < 16, keyHeld s k = false) :
    exec (.ldVxK x) s = .next (setPc s (s.pc - 2)) := by
  rw [exec, execLdVxK, lowestKey_none.2 h]

/-! ### The Cycle of an executor that completes (40 R100) -/

/-- The timers tick from the values in which the executor left them. -/
theorem cycle_of_completed (hf : Fetches s) (hi : decodeWord (fetchWord s) = i)
    (hu : exec i (Fetched s (fetchWord s)) = .next u) (hrun : u.halted = false) :
    cycle s = .next { u with dt := ticked u.dt, st := ticked u.st } :=
  (cycle_eq_endOfCycle hf (hi ▸ hu)).trans (congrArg _ (if_neg (Bool.eq_false_iff.1 hrun)))

end Sys2Proof.Machine

namespace Sys2Proof.Proofs

open Sys2Proof.Machine

/-- Settles O34: with no key held the wait takes back the 2 that the fetch added to PC. -/
theorem waitForKeyTakesTheLowestOrRepeats : Obligations.WaitForKeyTakesTheLowestOrRepeats := by
  refine ⟨fun op h => ?decode, fun s x k hk hheld hlower => ?taken, fun s x => exec_ldVxK_of_noKey,
    fun s x hf hx hnone => ?waiting⟩
  case decode => exact decodeWord_of_encode_eq rfl (wordPXKK_of_selector rfl rfl h)
  case taken => exact exec_ldVxK_of_lowestKey (lowestKey_some.2 ⟨hk, hheld, hlower⟩)
  case waiting =>
    have hpc : s.pc + 2 - 2 = s.pc := BitVec.add_sub_cancel s.pc 2
    refine (cycle_of_completed hf hx (exec_ldVxK_of_noKey hnone) hf.1).trans ?_
    simp only [setPc, hpc]

/-- Settles O33: SKP and SKNP are one operation, the skip decided by the key or by its negation. -/
theorem keySkips : Obligations.KeySkips := by
  refine ⟨fun op h => ?skp, fun op h => ?sknp, fun s x h => ⟨?held, ?notHeld⟩,
    fun s x h => ⟨skipOnKey_of_noKey true h, skipOnKey_of_noKey false h⟩⟩
  case held => exact (skipOnKey_of_key true h).trans (congrArg _ (skipIf_beq_true s _))
  case notHeld => exact (skipOnKey_of_key false h).trans (congrArg _ (skipIf_beq_false s _))
  all_goals rw [decodeWord_of_pE (fieldP_eq_of_mask rfl h), decodeTableE, fieldLow_eq_of_mask rfl h]; rfl

/-- Settles O35: each executor is one write of its destination, and the tick comes after it. -/
theorem timerInstructions : Obligations.TimerInstructions := by
  refine ⟨fun op h => ?ldVxDt, fun op h => ?ldDtVx, fun op h => ?ldStVx, fun s x => ⟨rfl, rfl, rfl⟩, fun s x hf =>
    ⟨fun hx => ⟨_, cycle_of_completed hf hx rfl hf.1, Vector.getElem_set_self _, rfl⟩,
      fun hx => ⟨_, cycle_of_completed hf hx rfl hf.1, rfl, rfl⟩,
      fun hx => ⟨_, cycle_of_completed hf hx rfl hf.1, rfl, rfl⟩⟩⟩
  all_goals exact decodeWord_of_encode_eq rfl (wordPXKK_of_selector rfl rfl h)

end Sys2Proof.Proofs

/-!
PROOFS. Exceptions and the host interface (spec/60_exceptions.md): where an executor faults, the state a faulting Cycle
leaves, the agreement of the status fields, and the host's next action.
-/

namespace Sys2Proof.Machine

variable {i : Instr} {s t u done : State} {c : FaultCause} {n : Nat}
  {f : Option (FaultCause × Nat)} {op : Word}

/-! ### Where an executor faults (60 R223, R225) -/

/-- `t` is what an executor answers in `s` when its fault there is the given one: that fault taken, or, with none, a
state in which HALTED is as it was. -/
def AnswersFault (s t : State) : Option (FaultCause × Nat) → Prop
  | some (c, n) => t = raiseFault s c n
  | none => t.halted = s.halted

/-- An access through I faults by the range check of its block, and is decided by what it does otherwise. -/
theorem withBlock_answersFault {p : Prop} [Decidable p] (h : withBlock s c n done = .next t)
    (hp : p ↔ 0 < n ∧ 0x1000 < s.i.toNat + n) (hdone : AnswersFault s done f) :
    AnswersFault s t (if p then some (c, max s.i.toNat 0x1000) else f) := by
  obtain ⟨hout, rfl⟩ | ⟨hin, rfl⟩ := withBlock_next h
  · rw [if_pos (hp.2 hout)]
    rfl
  · rwa [if_neg (hp.not.2 hin)]

theorem skipIf_halted (s : State) (b : Bool) : (skipIf s b).halted = s.halted :=
  (congrArg State.halted (skipIf_frame s b) :)

theorem writeBytes_halted (s : State) (a : Nat) (vs : List Byte) : (writeBytes s a vs).halted = s.halted :=
  (congrArg State.halted (writeBytes_eq s a vs) :)

theorem loadRegs_halted (s : State) (n : Nat) : (loadRegs s n).halted = s.halted :=
  (congrArg State.halted (loadRegs_eq s n) :)

theorem skipOnKey_answersFault {x : Reg} {w : Bool} (h : skipOnKey s x w = .next t) :
    AnswersFault s t (if 15 < s.v[x].toNat then some (.keyOor, s.v[x].toNat) else none) := by
  obtain ⟨hout, rfl⟩ | ⟨hin, rfl⟩ := skipOnKey_next h
  · exact (if_pos hout).symm ▸ rfl
  · exact (if_neg (Nat.not_lt.2 hin)).symm ▸ skipIf_halted ..

/-- A draw faults for its first listed cell past the grid (44 R192). -/
theorem drawSprite_answersFault (s : State) (cells : List Nat) :
    AnswersFault s (drawSprite s cells)
      ((cells.find? fun p => decide (2047 < p)).map fun p => (FaultCause.fbOor, p)) := by
  obtain ⟨p, hfind, hdraw⟩ | ⟨hgrid, hdraw⟩ := drawSprite_cases s cells
  · rw [hdraw, show cells.find? (fun p => decide (2047 < p)) = some p from hfind]
    rfl
  · have hnone : cells.find? (fun p => decide (2047 < p)) = none :=
      List.find?_eq_none.2 fun p hp => by simpa using Nat.le_of_lt_succ (hgrid p hp)
    rw [hdraw, hnone]
    rfl

/-- Every executor answers as the table of causes says. -/
theorem exec_answersFault (h : exec i s = .next t) : AnswersFault s t (faultOf i s) := by
  cases i with
  | ret =>
    rw [faultOf]
    split
    · next hsp => exact Host.Outcome.next.inj (h.symm.trans (exec_ret_of_empty hsp))
    · next hsp => exact Host.Outcome.next.inj (h.symm.trans (exec_ret_of_occupied (Nat.pos_of_ne_zero hsp))) ▸ rfl
  | call nnn =>
    rw [faultOf]
    split
    · next hsp => exact Host.Outcome.next.inj (h.symm.trans (exec_call_of_full nnn hsp))
    · next hsp => exact Host.Outcome.next.inj (h.symm.trans (exec_call_of_room nnn (by omega))) ▸ rfl
  | ldB x => exact withBlock_answersFault h (by omega) (f := none) (writeBytes_halted ..)
  | stRegs x => exact withBlock_answersFault h (by omega) (f := none) (writeBytes_halted ..)
  | ldRegs x => exact withBlock_answersFault h (by omega) (f := none) (loadRegs_halted ..)
  | drw x y n => exact withBlock_answersFault h (by omega) (drawSprite_answersFault ..)
  | skp | sknp => exact skipOnKey_answersFault h
  | seImm | sneImm | seReg | sneReg =>
    obtain rfl := Host.Outcome.next.inj h
    exact skipIf_halted ..
  | ldVxK =>
    rw [exec, execLdVxK] at h
    split at h <;> exact Host.Outcome.next.inj h ▸ rfl
  | _ => exact Host.Outcome.next.inj h ▸ rfl

/-! ### The fault record can hold every fault (10 R36, 60 R223) -/

/-- A fault as the record can hold it: a cause other than NONE and an address of 17 bits. -/
abbrev Recordable (c : FaultCause) (n : Nat) : Prop := c ≠ .none ∧ n < 2 ^ 17

theorem firstOor_lt (s : State) : firstOor s < 2 ^ 17 := by
  rw [firstOor, memSize]
  omega

/-- The last row of a sprite is at most 31 + 14, so its cells end far below 2^17. -/
theorem lt_of_mem_drwCells {x y : Reg} {k : Fin 16} {p : Nat} (h : p ∈ drwCells s x y k) : p < 2 ^ 17 := by
  obtain ⟨r, hr, c, hc, -, rfl⟩ := mem_drwCells.1 h
  rw [spriteCell]
  omega

theorem recordable_of_ite {p : Prop} [Decidable p] {c' : FaultCause} {n' : Nat}
    (h : (if p then some (c', n') else none) = some (c, n)) (hr : Recordable c' n') : Recordable c n := by
  obtain ⟨-, heq⟩ := Option.ite_none_right_eq_some.1 h
  cases heq
  exact hr

theorem faultOf_recordable (h : faultOf i s = some (c, n)) : Recordable c n := by
  cases i with
  | ret | call => exact recordable_of_ite h (by decide)
  | ldB | stRegs | ldRegs => exact recordable_of_ite h ⟨nofun, firstOor_lt s⟩
  | skp x | sknp x => exact recordable_of_ite h ⟨nofun, s.v[x].isLt.trans (by decide)⟩
  | drw x y k =>
    rw [faultOf] at h
    split at h
    · cases h
      exact ⟨nofun, firstOor_lt s⟩
    · obtain ⟨p, hfind, heq⟩ := Option.map_eq_some_iff.1 h
      cases heq
      exact ⟨nofun, lt_of_mem_drwCells (List.mem_of_find?_eq_some hfind)⟩
  | _ => cases h

/-! ### The state a Cycle leaves (60 R222) -/

theorem eq_of_cycle_of_halted (hs : s.halted = true) (h : cycle s = .next t) : t = s :=
  Host.Outcome.next.inj (h.symm.trans (cycle_of_halted hs))

/-- The fault puts PC back to the fetch address, and the Cycle's end puts back OPCODE. -/
theorem finishCycle_raiseFault (s : State) (c : FaultCause) (n : Nat) :
    finishCycle (beginCycle s) (raiseFault (Fetched s (fetchWord s)) c n) =
      takeFault (beginCycle s) s.pc (fetchWord s) c n := by
  have hpc : s.pc + 2 - 2 = s.pc := BitVec.add_sub_cancel s.pc 2
  rw [finishCycle, raiseFault, hpc]
  rfl

theorem finishCycle_halted (s u : State) : (finishCycle s u).halted = u.halted :=
  (congrArg State.halted (finishCycle_frame s u) :)

/-- How a Cycle that begins running ends: in the fault of the fetch or of the executor, taken in the state in which the
Cycle began, or running, after an executor that completed. -/
theorem cycle_running_cases (hs : s.halted = false) (h : cycle s = .next t) :
    (lastFetch < s.pc.toNat ∧ t = takeFault (beginCycle s) s.pc 0 .fetchOor (max s.pc.toNat memSize)) ∨
      (s.pc.toNat ≤ lastFetch ∧ ∃ c n, faultOf (decodeWord (fetchWord s)) (Fetched s (fetchWord s)) = some (c, n) ∧
        t = takeFault (beginCycle s) s.pc (fetchWord s) c n) ∨
      ∃ u, exec (decodeWord (fetchWord s)) (Fetched s (fetchWord s)) = .next u ∧ u.halted = false ∧
        t = finishCycle (beginCycle s) u := by
  obtain ⟨hh, -⟩ | ⟨-, hpc, rfl⟩ | ⟨-, hpc, u, hu, rfl⟩ := cycle_cases h
  · exact nomatch hs.symm.trans hh
  · exact .inl ⟨hpc, rfl⟩
  have hanswer : AnswersFault (Fetched s (fetchWord s)) u
      (faultOf (decodeWord (fetchWord s)) (Fetched s (fetchWord s))) := exec_answersFault hu
  cases hfault : faultOf (decodeWord (fetchWord s)) (Fetched s (fetchWord s)) with
  | none =>
    rw [hfault] at hanswer
    exact .inr (.inr ⟨u, hu, hanswer.trans hs, rfl⟩)
  | some fault =>
    rw [hfault] at hanswer
    obtain rfl : u = raiseFault _ _ _ := hanswer
    exact .inr (.inl ⟨hpc, _, _, rfl, finishCycle_raiseFault ..⟩)

/-! ### The agreement of the status fields (60 R222, R226, 20 R57) -/

theorem takeFault_statusOk (op : Word) (n : Nat) (hc : c ≠ .none) :
    StatusOk (takeFault (beginCycle s) s.pc op c n) :=
  ⟨fun _ => ⟨hc, rfl, rfl⟩, nofun, fun _ => rfl⟩

/-- A Cycle that ends running has set LOADED and leaves the record clear. -/
theorem finishCycle_statusOk (hs : StatusOk s) (hrun : s.halted = false) (hu : exec i (Fetched s op) = .next u)
    (hurun : u.halted = false) : StatusOk (finishCycle (beginCycle s) u) := by
  obtain ⟨-, -, hloaded, -⟩ := exec_keeps_status hu
  obtain ⟨hcause, hpc, hop, haddr⟩ := exec_keeps_faultRecord hu hurun
  obtain ⟨-, hclear, -⟩ := hs
  obtain ⟨hcause0, hpc0, hop0, haddr0⟩ := hclear hrun
  rw [finishCycle_frame]
  exact ⟨fun hh => (nomatch hurun.symm.trans hh),
    fun _ => ⟨hcause.trans hcause0, hpc.trans hpc0, hop.trans hop0, haddr.trans haddr0⟩, fun _ => hloaded⟩

theorem cycle_statusOk (hs : StatusOk s) (h : cycle s = .next t) : StatusOk t := by
  cases hrun : s.halted with
  | true => exact eq_of_cycle_of_halted hrun h ▸ hs
  | false =>
    obtain ⟨-, rfl⟩ | ⟨-, c, n, hfault, rfl⟩ | ⟨u, hu, hurun, rfl⟩ := cycle_running_cases hrun h
    · exact takeFault_statusOk _ _ nofun
    · obtain ⟨hcause, -⟩ := faultOf_recordable hfault
      exact takeFault_statusOk _ _ hcause
    · exact finishCycle_statusOk hs hrun hu hurun

theorem hostReset_statusOk (s : State) : StatusOk (hostReset s) :=
  ⟨nofun, fun _ => ⟨rfl, rfl, rfl, rfl⟩, nofun⟩

/-- A load leaves HALTED and the record alone, and one that ends OK sets LOADED (20 R57). -/
theorem loadRom_statusOk (hs : StatusOk s) (bytes : List Byte) : StatusOk (loadRom s bytes) := by
  obtain ⟨-, hl⟩ | ⟨-, -, hl⟩ | ⟨-, -, hl⟩ := loadRom_cases s bytes <;> rw [hl]
  · exact hs
  · obtain ⟨hhalted, hclear, -⟩ := hs
    exact ⟨hhalted, hclear, nofun⟩
  · obtain ⟨hhalted, hclear, -⟩ := hs
    exact ⟨fun hh => (hhalted hh).imp_right (And.imp_right fun _ => rfl), hclear, fun _ => rfl⟩

end Sys2Proof.Machine

namespace Sys2Proof.Proofs

open Sys2Proof.Machine

/-- Settles O55, by the action the step takes. -/
theorem stepKeepsStatusCoherent : Obligations.StepKeepsStatusCoherent := by
  intro s t hs h
  obtain ⟨-, hc⟩ | ⟨act, rest, -, ⟨-, rfl⟩ | ⟨bytes, -, rfl⟩ | ⟨key, -, rfl⟩ | ⟨-, hc⟩⟩ := step_cases h
  · exact cycle_statusOk hs hc
  · exact hostReset_statusOk _
  · exact loadRom_statusOk (s := { s with pending := rest }) hs bytes
  · exact hs
  · exact cycle_statusOk (s := { s with pending := rest }) hs hc

/-- Settles O36: both faults are taken in the state in which the Cycle began. -/
theorem faultsArePrecise : Obligations.FaultsArePrecise := by
  intro s t hs h ht
  obtain ⟨hpc, rfl⟩ | ⟨hpc, c, n, hfault, rfl⟩ | ⟨u, -, hurun, rfl⟩ := cycle_running_cases hs h
  · refine ⟨.fetchOor, max s.pc.toNat memSize, ?_⟩
    rw [if_pos hpc, if_pos hpc]
    exact ⟨⟨rfl, rfl⟩, rfl⟩
  · refine ⟨c, n, ?_⟩
    rw [if_neg (Nat.not_lt.2 hpc), if_neg (Nat.not_lt.2 hpc)]
    exact ⟨hfault, rfl⟩
  · rw [finishCycle_halted] at ht
    exact nomatch hurun.symm.trans ht

/-- Settles O37: an executor has one answer, and it is the one that the table of causes gives. -/
theorem faultsFollowTheTableOfCauses : Obligations.FaultsFollowTheTableOfCauses := by
  refine ⟨rfl, fun s hs hpc => ⟨_, cycle_of_fetchOor hs hpc, rfl, rfl, toNat_ofNat_of_lt ?fetchAddr⟩, fun i s hs => ?_⟩
  case fetchAddr => exact Nat.max_lt.2 ⟨s.pc.isLt.trans (by decide), by decide⟩
  obtain ⟨t, ht⟩ := exec_next i s
  have hanswer := exec_answersFault ht
  refine ⟨fun c n hfault => ?fault, fun hnone => ?completes⟩
  case fault =>
    rw [hfault] at hanswer
    exact ⟨ht.trans (congrArg _ hanswer), toNat_ofNat_of_lt (faultOf_recordable hfault).2⟩
  case completes =>
    rw [hnone] at hanswer
    exact ⟨t, ht, hanswer.trans hs⟩

/-- Settles O38: while halted a Cycle does nothing, and LOADED = 1 makes a load do nothing. -/
theorem haltedIsLeftOnlyByReset : Obligations.HaltedIsLeftOnlyByReset := by
  intro s t hs hh h
  obtain ⟨-, -, hloaded⟩ := hs.1 hh
  obtain ⟨hp, hc⟩ | ⟨act, rest, hp, ⟨rfl, rfl⟩ | ⟨bytes, -, rfl⟩ | ⟨key, -, rfl⟩ | ⟨-, hc⟩⟩ := step_cases h
  · have htail : s.pending.tail = s.pending := by rw [hp]; rfl
    rw [eq_of_cycle_of_halted hh hc, htail]
    exact .inr rfl
  · rw [hp]
    exact .inl ⟨rfl, rfl, rfl⟩
  · rw [loadRom_of_loaded (s := { s with pending := rest }) hloaded, hp]
    exact .inr rfl
  · rw [hp]
    exact .inr rfl
  · rw [eq_of_cycle_of_halted (s := { s with pending := rest }) hh hc, hp]
    exact .inr rfl

/-- Settles O7. -/
theorem stepTakesTheNextHostAction : Obligations.StepTakesTheNextHostAction := by
  intro s
  refine ⟨fun hp => ?cycle, fun act rest hp => ?pending, fun _ => rfl, _, rfl, rfl, rfl⟩
  case cycle => rw [step, hp]; rfl
  case pending => rw [step, hp]

/-- Settles O44. -/
theorem outputsShowTheState : Obligations.OutputsShowTheState := by
  refine ⟨rfl, fun s => ⟨?sound, fun _ _ _ _ => rfl⟩⟩
  case sound =>
    calc soundActive s = true ↔ s.st ≠ 0 := bne_iff_ne
      _ ↔ s.st.toNat ≠ 0 := BitVec.toNat_inj.not.symm

end Sys2Proof.Proofs

/-!
PROOFS. Reset (spec/70_reset_and_hazards.md): the base case of the three invariants that every step keeps.
-/

namespace Sys2Proof.Machine

/-- The machine right after reset is one the host's command `reset` leaves as it is (70 R250). -/
theorem hostReset_reset : hostReset State.reset = State.reset := rfl

end Sys2Proof.Machine

namespace Sys2Proof.Proofs

open Sys2Proof.Machine

/-- Settles O56: the command `reset` meets the three invariants from any state, and State.reset is what it leaves. -/
theorem resetMeetsTheInvariants : Obligations.ResetMeetsTheInvariants := by
  rw [Obligations.ResetMeetsTheInvariants, ← hostReset_reset]
  exact ⟨hostReset_memoryOk _, hostReset_controlOk _, hostReset_statusOk _⟩

end Sys2Proof.Proofs
